-- ==== Sys2Proof/Word.lean ====
section
/-! DEFINITION. The word types of the block (00_scope.md R6, 30_encoding.md R45, 10_state.md R14). -/

namespace Sys2Proof

/-- A byte of Buf or Out (20_memory.md R30). -/
abbrev Byte := BitVec 8

/-- A lane value: an unsigned 64-bit integer, bit `i` the coefficient of `2^i` (R6). -/
abbrev Word64 := BitVec 64

/-- One command word `w[31:0]` (R45). -/
abbrev CommandWord := BitVec 32

/-- A value of the byte counter t (R14: 128 bits). -/
abbrev Counter := BitVec 128

end Sys2Proof
end

