-- ==== Sys2Proof/Syntax.lean ====
section
/-! DEFINITION. The commands (30_encoding.md R46 to R50), one constructor of `Instr` for each row of the
opcode table, and the assembler's pseudo-instructions (R56). -/

namespace Sys2Proof

/-- A 5-bit lane address (fields rd, rs1, rs2; R49): 0..15 name v, 16..23 name h, 24..31 nothing. -/
abbrev LaneAddr := Fin 32

/-- An index of v (the fields a, b, c, d of format G, R47). -/
abbrev WorkIndex := Fin 16

/-- An index of m (the fields mx, x, y; R46, R47). -/
abbrev MsgIndex := Fin 16

/-- The 6-bit rotation amount (R46). -/
abbrev RotAmount := Fin 64

/-- The 4-bit round number field (R48); 12..15 are illegal (R51). -/
abbrev RoundNumber := Fin 16

/-- The 28-bit chunk index (R48, R52). -/
abbrev ChunkIndex := Fin 268435456

/-- The twelve commands (R50). -/
inductive Instr where
  /-- XOR rd, rs1, rs2 (R66). -/
  | xor (rd rs1 rs2 : LaneAddr)
  /-- ADD rd, rs1, rs2 (R67). -/
  | add (rd rs1 rs2 : LaneAddr)
  /-- ADDM rd, rs1, rs2, mX (R68). -/
  | addm (rd rs1 rs2 : LaneAddr) (mx : MsgIndex)
  /-- ROTR rd, rs1, #amt (R69). -/
  | rotr (rd rs1 : LaneAddr) (amt : RotAmount)
  /-- G va, vb, vc, vd, mX, mY (R76). -/
  | g (a b c d : WorkIndex) (x y : MsgIndex)
  /-- ROUND #r (R78). -/
  | round (r : RoundNumber)
  /-- INIT (R81). -/
  | init
  /-- LDCHUNK #k (R82). -/
  | ldchunk (k : ChunkIndex)
  /-- SEED #f (R83). -/
  | seed (f : Bool)
  /-- FEED (R84). -/
  | feed
  /-- COMPRESS #f (R85). -/
  | compress (f : Bool)
  /-- STDIG (R86). -/
  | stdig
  deriving DecidableEq, Repr

/-- The assembler's pseudo-instructions (R56); the machine never sees one. -/
inductive Pseudo where
  /-- XRR rd, rs1, rs2, #amt. -/
  | xrr (rd rs1 rs2 : LaneAddr) (amt : RotAmount)
  /-- MOV rd, rs. -/
  | mov (rd rs : LaneAddr)
  /-- GP va, vb, vc, vd, mX, mY. -/
  | gp (a b c d : WorkIndex) (x y : MsgIndex)
  /-- COMPRESSX #f. -/
  | compressx (f : Bool)
  deriving DecidableEq, Repr

end Sys2Proof
end

