-- ==== Sys2Proof/WellFormed.lean ====
section
/-! DEFINITION. Which commands are legal (30_encoding.md R51 (c) and (d)); the must-be-zero fields of R51 (b)
and the unused opcodes of R51 (a) are no part of a decoded command and are checked by the decoder. -/

namespace Sys2Proof

/-- R51: why a word is illegal. -/
inductive IllegalReason where
  /-- (a) op is 0x0, 0xD, 0xE or 0xF. -/
  | unusedOpcode
  /-- (b) a field the command must have zero is not zero. -/
  | nonzeroField
  /-- (c) a used lane-address field holds 24..31. -/
  | laneAddress
  /-- (d) ROUND with r >= 12. -/
  | roundNumber
  deriving DecidableEq, Repr

/-- R49, R51 (c): the lane address names a lane. -/
def LaneAddr.legal (a : LaneAddr) : Bool := decide (a.val < 24)

/-- R51 (c), (d): the reason a command's operands make it illegal, none when it is legal. -/
def Instr.illegal? : Instr → Option IllegalReason
  | .xor rd rs1 rs2 =>
      if LaneAddr.legal rd && LaneAddr.legal rs1 && LaneAddr.legal rs2 then none else some .laneAddress
  | .add rd rs1 rs2 =>
      if LaneAddr.legal rd && LaneAddr.legal rs1 && LaneAddr.legal rs2 then none else some .laneAddress
  | .addm rd rs1 rs2 _ =>
      if LaneAddr.legal rd && LaneAddr.legal rs1 && LaneAddr.legal rs2 then none else some .laneAddress
  | .rotr rd rs1 _ =>
      if LaneAddr.legal rd && LaneAddr.legal rs1 then none else some .laneAddress
  | .g _ _ _ _ _ _ => none
  | .round r => if r.val < 12 then none else some .roundNumber
  | .init => none
  | .ldchunk _ => none
  | .seed _ => none
  | .feed => none
  | .compress _ => none
  | .stdig => none

/-- A command that R51 does not make illegal. -/
def Instr.wellFormed (i : Instr) : Bool := i.illegal?.isNone

end Sys2Proof
end

