-- ==== Sys2Proof/Decode.lean ====
section
/-! DEFINITION. Decoding a command word (30_encoding.md R45 to R54), total and rejecting by name; then the
encoder, written from the same formats; and the match/mask rows of R50. -/

namespace Sys2Proof

/-- R52: the unsigned integer in the `len` bits of `w` from bit `lo` up. -/
def fieldAt (w : CommandWord) (lo len : Nat) : Nat := w.toNat / 2 ^ lo % 2 ^ len

/-- The field as a number below `n` (R52: nothing is sign-extended, scaled or shifted). -/
def finAt (n : Nat) [NeZero n] (w : CommandWord) (lo len : Nat) : Fin n := Fin.ofNat n (fieldAt w lo len)

/-- R45: `op = w[31:28]`. -/
def opcodeOf (w : CommandWord) : Nat := fieldAt w 28 4

/-- R46: the lane addresses of format R. -/
def rdOf (w : CommandWord) : LaneAddr := finAt 32 w 23 5
def rs1Of (w : CommandWord) : LaneAddr := finAt 32 w 18 5
def rs2Of (w : CommandWord) : LaneAddr := finAt 32 w 13 5

/-- The outcome of decoding (R54): one command, or an illegal word with its reason. -/
inductive Decoded where
  | command (i : Instr)
  | illegal (why : IllegalReason)
  deriving DecidableEq, Repr

/-- R51 (b) on the field at `lo`, `len`; then R51 (c) and (d) on the command read. -/
def checked (mustBeZero : Bool) (i : Instr) : Decoded :=
  if mustBeZero then
    match i.illegal? with
    | none => .command i
    | some why => .illegal why
  else .illegal .nonzeroField

/-- R54: every word decodes to one command of R50 with its fields, or is illegal by R51. -/
def decode (w : CommandWord) : Decoded :=
  match opcodeOf w with
  | 0x1 => checked (fieldAt w 0 13 == 0) (.xor (rdOf w) (rs1Of w) (rs2Of w))
  | 0x2 => checked (fieldAt w 0 13 == 0) (.add (rdOf w) (rs1Of w) (rs2Of w))
  | 0x3 => checked (fieldAt w 0 9 == 0) (.addm (rdOf w) (rs1Of w) (rs2Of w) (finAt 16 w 9 4))
  | 0x4 => checked (fieldAt w 0 3 == 0 && fieldAt w 9 9 == 0) (.rotr (rdOf w) (rs1Of w) (finAt 64 w 3 6))
  | 0x5 => checked (fieldAt w 0 4 == 0)
      (.g (finAt 16 w 24 4) (finAt 16 w 20 4) (finAt 16 w 16 4) (finAt 16 w 12 4) (finAt 16 w 8 4) (finAt 16 w 4 4))
  | 0x6 => checked (fieldAt w 4 24 == 0) (.round (finAt 16 w 0 4))
  | 0x7 => checked (fieldAt w 0 28 == 0) .init
  | 0x8 => checked true (.ldchunk (finAt 268435456 w 0 28))
  | 0x9 => checked (fieldAt w 1 27 == 0) (.seed (fieldAt w 0 1 == 1))
  | 0xA => checked (fieldAt w 0 28 == 0) .feed
  | 0xB => checked (fieldAt w 1 27 == 0) (.compress (fieldAt w 0 1 == 1))
  | 0xC => checked (fieldAt w 0 28 == 0) .stdig
  | _ => .illegal .unusedOpcode

/-- R46: a format R word from its fields. -/
def formatR (op : Nat) (rd rs1 rs2 : LaneAddr) (mx amt : Nat) : CommandWord :=
  BitVec.ofNat 32 (op * 2 ^ 28 + rd.val * 2 ^ 23 + rs1.val * 2 ^ 18 + rs2.val * 2 ^ 13 + mx * 2 ^ 9 + amt * 2 ^ 3)

/-- R48: a format S word from its fields. -/
def formatS (op imm : Nat) : CommandWord := BitVec.ofNat 32 (op * 2 ^ 28 + imm)

/-- The word of a command (R46 to R48, R50). -/
def encode : Instr → CommandWord
  | .xor rd rs1 rs2 => formatR 0x1 rd rs1 rs2 0 0
  | .add rd rs1 rs2 => formatR 0x2 rd rs1 rs2 0 0
  | .addm rd rs1 rs2 mx => formatR 0x3 rd rs1 rs2 mx.val 0
  | .rotr rd rs1 amt => formatR 0x4 rd rs1 0 0 amt.val
  | .g a b c d x y =>
      BitVec.ofNat 32 (0x5 * 2 ^ 28 + a.val * 2 ^ 24 + b.val * 2 ^ 20 + c.val * 2 ^ 16 + d.val * 2 ^ 12
        + x.val * 2 ^ 8 + y.val * 2 ^ 4)
  | .round r => formatS 0x6 r.val
  | .init => formatS 0x7 0
  | .ldchunk k => formatS 0x8 k.val
  | .seed f => formatS 0x9 f.toNat
  | .feed => formatS 0xA 0
  | .compress f => formatS 0xB f.toNat
  | .stdig => formatS 0xC 0

/-- A match/mask row of R50, with its mnemonic as the table spells it. -/
structure OpcodeRow where
  mnemonic : String
  matchBits : CommandWord
  mask : CommandWord
  deriving DecidableEq, Repr

/-- R50's table of match/mask pairs. -/
def opcodeRows : List OpcodeRow := [
  ⟨"XOR", 0x10000000, 0xF0001FFF⟩, ⟨"ADD", 0x20000000, 0xF0001FFF⟩, ⟨"ADDM", 0x30000000, 0xF00001FF⟩,
  ⟨"ROTR", 0x40000000, 0xF003FE07⟩, ⟨"G", 0x50000000, 0xF000000F⟩, ⟨"ROUND", 0x60000000, 0xFFFFFFF0⟩,
  ⟨"INIT", 0x70000000, 0xFFFFFFFF⟩, ⟨"LDCHUNK", 0x80000000, 0xF0000000⟩, ⟨"SEED", 0x90000000, 0xFFFFFFFE⟩,
  ⟨"FEED", 0xA0000000, 0xFFFFFFFF⟩, ⟨"COMPRESS", 0xB0000000, 0xFFFFFFFE⟩, ⟨"STDIG", 0xC0000000, 0xFFFFFFFF⟩]

/-- R50: the row selects the word. -/
def OpcodeRow.selects (row : OpcodeRow) (w : CommandWord) : Bool := w &&& row.mask == row.matchBits

/-- The mnemonic of a command (R50). -/
def Instr.mnemonic : Instr → String
  | .xor _ _ _ => "XOR"
  | .add _ _ _ => "ADD"
  | .addm _ _ _ _ => "ADDM"
  | .rotr _ _ _ => "ROTR"
  | .g _ _ _ _ _ _ => "G"
  | .round _ => "ROUND"
  | .init => "INIT"
  | .ldchunk _ => "LDCHUNK"
  | .seed _ => "SEED"
  | .feed => "FEED"
  | .compress _ => "COMPRESS"
  | .stdig => "STDIG"

/-- The command the decoder reads from an opcode-table word: every command is one 32-bit word (R45, R53), held
whole in the command stream, so no byte order arises (20_memory.md R35); bits above `nbits` are zero. -/
def decodeTableWord (nbits w : Nat) : Option Instr :=
  if w % 2 ^ nbits < 2 ^ 32 then
    match decode (BitVec.ofNat 32 (w % 2 ^ nbits)) with
    | .command i => some i
    | .illegal _ => none
  else none

end Sys2Proof
end

