-- ==== Sys2Proof/Config.lean ====
section
/-! DEFINITION. What is fixed for one machine: the fixed parameters of 00_scope.md R4, and the
parameters the spec lets a model take with a default (IV R18, KEY R19, SIGMA R74, FIELD_PRIME R5)
or leaves open (REUSE_EXPLODED, 92_eei_decisions.md D27). -/

namespace Sys2Proof.Config

/-- BLOCK_BYTES (R4): the bytes of one chunk. -/
abbrev blockBytes : Nat := 128

/-- KEY_BYTES (R4). -/
abbrev keyBytes : Nat := 16

/-- OUT_BYTES (R4). -/
abbrev outBytes : Nat := 32

/-- N_ROUNDS (R4, R80). -/
abbrev numRounds : Nat := 12

/-- TRIM2 (R4, R65): the trim width of a two-operand sum. -/
abbrev trim2 : Nat := 65

/-- TRIM3 (R4, R65): the trim width of a three-operand sum. -/
abbrev trim3 : Nat := 66

/-- One more than the largest chunk index LDCHUNK can name (R52); R92 refuses more chunks. -/
abbrev maxChunks : Nat := 268435456

/-- PARAM (R81): `0x0101 || keyLen || outLen`, zero-extended to 64 bits. -/
def paramWord : Word64 := BitVec.ofNat 64 (0x0101 * 2 ^ 16 + keyBytes * 2 ^ 8 + outBytes)

/-- The machine's parameters. None is state (R20, R27) and no command or host move writes one; they
stand together here so that every definition takes them as the arguments R5, R18, R19, R74 and D27
ask for. -/
structure Params where
  /-- IV[0..7] (R18). -/
  iv : Vector Word64 8
  /-- SIGMA, 10 rows of 16 message indices (R74). -/
  sigma : Vector (Vector (Fin 16) 16) 10
  /-- KEY[0..15] (R19). -/
  key : Vector Byte 16
  /-- FIELD_PRIME, the prime P of the constraint system (R5). -/
  fieldPrime : Nat
  /-- REUSE_EXPLODED (R25, D27): whether an XOR or ROTR reuses the exploded bits a lane holds. -/
  reuseExploded : Bool
  deriving DecidableEq, Repr

/-- The default IV (R18). -/
def defaultIv : Vector Word64 8 := #v[
  0x6a09e667f3bcc908, 0xbb67ae8584caa73b, 0x3c6ef372fe94f82b, 0xa54ff53a5f1d36f1,
  0x510e527fade682d1, 0x9b05688c2b3e6c1f, 0x1f83d9abfb41bd6b, 0x5be0cd19137e2179]

/-- The default SIGMA (R74). -/
def defaultSigma : Vector (Vector (Fin 16) 16) 10 := #v[
  #v[0, 1, 2, 3, 4, 5, 6, 7, 8, 9, 10, 11, 12, 13, 14, 15],
  #v[14, 10, 4, 8, 9, 15, 13, 6, 1, 12, 0, 2, 11, 7, 5, 3],
  #v[11, 8, 12, 0, 5, 2, 15, 13, 10, 14, 3, 6, 7, 1, 9, 4],
  #v[7, 9, 3, 1, 13, 12, 11, 14, 2, 6, 5, 10, 4, 0, 15, 8],
  #v[9, 0, 5, 7, 2, 4, 10, 15, 14, 1, 11, 12, 6, 8, 3, 13],
  #v[2, 12, 6, 10, 0, 11, 8, 3, 4, 13, 7, 5, 15, 14, 1, 9],
  #v[12, 5, 1, 15, 14, 13, 4, 10, 0, 7, 6, 3, 9, 2, 8, 11],
  #v[13, 11, 7, 14, 12, 1, 3, 9, 5, 0, 15, 4, 8, 6, 2, 10],
  #v[6, 15, 14, 9, 11, 3, 0, 8, 12, 2, 13, 7, 1, 4, 10, 5],
  #v[10, 2, 8, 4, 7, 6, 1, 5, 15, 11, 9, 14, 3, 12, 13, 0]]

/-- The default KEY, the ASCII bytes of ZcashComputehSig (R19). -/
def defaultKey : Vector Byte 16 := #v[
  0x5a, 0x63, 0x61, 0x73, 0x68, 0x43, 0x6f, 0x6d, 0x70, 0x75, 0x74, 0x65, 0x68, 0x53, 0x69, 0x67]

/-- The default FIELD_PRIME, the BN254 scalar field (R5). -/
def defaultFieldPrime : Nat :=
  21888242871839275222246405745257275088548364400416034343698204186575808495617

/-- REUSE_EXPLODED for this machine: the spec leaves it open (92_eei_decisions.md D27), so it is a free value (log
entry 8). -/
opaque freeReuse : Bool

/-- The parameters the machine starts with: the spec's defaults, and the free value for the one without. -/
def Params.standard : Params :=
  { iv := defaultIv, sigma := defaultSigma, key := defaultKey, fieldPrime := defaultFieldPrime,
    reuseExploded := freeReuse }

/-- R5: the requirement on FIELD_PRIME that the trim widths need. -/
def Params.fieldLargeEnough (p : Params) : Bool := decide (2 ^ 66 < p.fieldPrime)

end Sys2Proof.Config
end

