-- ==== Sys2Proof/Machine/State.lean ====
section
/-! DEFINITION. The state of the block and of its host side as plain data (10_state.md R10 to R27), the reasons a
step stops, and the state after reset (R27, 70_reset_and_hazards.md R130). -/

namespace Sys2Proof.Machine

/-- A byte space in canonical form: addresses strictly rising, and no entry equal to what an unlisted address
of that space reads as (Machine/Ops.lean, `Memory.wf`). -/
abbrev Memory := List Host.Cell

/-- The lanes a command or the host port can name: v, h (R49) and m (R13, R99). -/
inductive LaneName where
  | v (i : Fin 16)
  | h (i : Fin 8)
  | m (i : Fin 16)
  deriving DecidableEq, Repr

/-- A field-level wire (00_scope.md R8): an integer constant, an allocated wire by its number, or a linear
combination of wires, which adds no constraint (field add and an integer multiple). -/
inductive Wire where
  | ofConst (c : Int)
  | ofId (n : Nat)
  | add (x y : Wire)
  | scale (c : Int) (x : Wire)
  deriving DecidableEq, Repr

/-- The three kinds of constraint (R8). -/
inductive Constraint where
  /-- `b·(b - 1) = 0`. -/
  | booleanity (b : Wire)
  /-- `z = x·y`. -/
  | multiplication (z x y : Wire)
  /-- `sum = w`, the left side a linear combination. -/
  | linear (sum w : Wire)
  deriving DecidableEq, Repr

/-- The field-level representation of a lane (R25): its packed wire and, where it holds them, its 64 exploded
bit wires, bit 0 first. -/
structure LaneRep where
  packed : Wire
  bits : Option (List Wire)
  deriving DecidableEq, Repr

/-- The number of wires allocated so far and the append-only constraint record (R24). -/
structure Arena where
  nextWire : Nat
  record : List Constraint
  deriving DecidableEq, Repr

/-- The field level of the block: the arena, the representation of every lane, and the byte wires of Out
(empty before the first STDIG). The representation of a lane that holds no value means nothing. -/
structure FieldLevel where
  arena : Arena
  v : Vector LaneRep 16
  h : Vector LaneRep 8
  m : Vector LaneRep 16
  out : List Wire
  deriving DecidableEq, Repr

/-- The faults of 60_exceptions.md R110. -/
inductive FaultCode where
  | illegalCommand
  | unwrittenRead
  | chunkRange
  | configLength
  | constraintViolation
  deriving DecidableEq, Repr

/-- R110's "information kept" for CONSTRAINT_VIOLATION: the violated constraint of the record (R113), or the raw
value given as a lane that breaks the lane invariant (40_lane_arithmetic.md R72). -/
inductive Violation where
  | violated (c : Constraint)
  | rawLane (value : Nat)
  deriving DecidableEq, Repr

/-- The states of the chunk driver (43_host_driver.md R95). -/
inductive DriverState where
  | idle
  | compressing (i : Nat)
  | finalCompress
  | done
  deriving DecidableEq, Repr

/-- The driver: its state, and whether it has issued the LDCHUNK of the chunk that state names (R95: a chunk is
`LDCHUNK #i; COMPRESS #f`). -/
structure Driver where
  state : DriverState
  loaded : Bool
  deriving DecidableEq, Repr

/-- All of the state. -/
structure State where
  /-- The machine's parameters; not state of the spec, never written (R20). -/
  params : Config.Params
  /-- The working vector v[0..15] (R11); `none` is *no value* (R10). -/
  v : Vector (Option Word64) 16
  /-- The chaining state h[0..7] (R12). -/
  h : Vector (Option Word64) 8
  /-- The message block m[0..15] (R13). -/
  m : Vector (Option Word64) 16
  /-- The byte counter t (R14), a 128-bit value or no value. -/
  t : Option Counter
  /-- The command pointer (R16), an unbounded natural number. -/
  cp : Nat
  /-- The FAULT register (R22). -/
  fault : BitVec 8
  /-- What CONSTRAINT_VIOLATION keeps (R110). -/
  violation : Option Violation
  /-- The REFUSED mark (R23). -/
  refused : Bool
  /-- The output buffer Out (20_memory.md R30). -/
  out : Memory
  /-- N_IN (R21). -/
  nIn : Nat
  /-- BW_IN (R21). -/
  bwIn : Nat
  /-- LEN (R21). -/
  len : Nat
  /-- BINARY_OUT (R21), reserved. -/
  binaryOut : Bool
  /-- PAD_REQ (R21), reserved. -/
  padReq : Bool
  /-- LABEL (R21), naming only. -/
  label : Option String
  /-- Whether construction has built Buf since the last reset (43_host_driver.md R90, R94). -/
  built : Bool
  /-- The number of the wire that carries message byte 0, the first of the N_IN input wires (43_host_driver.md R92). -/
  inputBase : Nat
  /-- The input wires the host's lane-write port has written, with the value each carries (43_host_driver.md R99). -/
  portInputs : List (Nat × Word64)
  /-- The prepared-input buffer Buf (20_memory.md R31). -/
  buf : Memory
  /-- The command stream (20_memory.md R30), `none` until the host supplies it (R90). -/
  stream : Option (List CommandWord)
  /-- The constraint record (R24) and the lane representations (R25). -/
  field : FieldLevel
  /-- The chunk driver of the host side (R26). -/
  driver : Driver
  deriving DecidableEq, Repr

/-- Why a step finds no command to execute. None of these is raised by a command: the faults of
R110 are taken, and show in the FAULT register. -/
inductive Fault where
  /-- FAULT holds a nonzero code: the block executes no further command until reset (60_exceptions.md R117, R118).
  Raised by the fetch; safe. -/
  | halted (code : BitVec 8)
  /-- The host has not constructed the gadget since reset (43_host_driver.md R90). Raised by the fetch; safe. -/
  | notConstructed
  /-- The host has supplied no command stream (R90). Raised by the fetch; safe. -/
  | noStream
  /-- cp is the length of the stream: the run has ended (R100). Raised by the fetch; safe. -/
  | runEnded
  deriving DecidableEq, Repr

/-- Why the model refuses a step. -/
inductive Refusal where
  /-- An instruction without a meaning; no arm of exec answers with it. Safe. -/
  | notModelled (mnemonic : String)
  /-- REFUSED is set: the host asked for a configuration the spec gives no meaning (43_host_driver.md R92,
  60_exceptions.md R114). Raised by the fetch; safe. -/
  | configurationRefused
  deriving DecidableEq, Repr

/-- The outcome of a command or a step. -/
abbrev Result := Host.Outcome State Fault Refusal

/-- The representation a lane register stands at while it holds no value; it means nothing. -/
def LaneRep.unwritten : LaneRep := { packed := Wire.ofConst 0, bits := none }

/-- The field level after reset: the record is empty (R27). -/
def FieldLevel.initial : FieldLevel :=
  { arena := { nextWire := 0, record := [] }
    v := Vector.replicate 16 LaneRep.unwritten
    h := Vector.replicate 8 LaneRep.unwritten
    m := Vector.replicate 16 LaneRep.unwritten
    out := [] }

/-- The state right after the first reset (R27, R130). The configuration registers and Buf, to which the spec gives no
reset value, stand at the values of log entry 1: Buf lists nothing before the first construction, DESIGN CHOICE. -/
def State.reset : State :=
  { params := Config.Params.standard
    v := Vector.replicate 16 none
    h := Vector.replicate 8 none
    m := Vector.replicate 16 none
    t := none
    cp := 0
    fault := 0
    violation := none
    refused := false
    out := []
    nIn := 0
    bwIn := 0
    len := 0
    binaryOut := false
    padReq := false
    label := none
    built := false
    inputBase := 0
    portInputs := []
    buf := []
    stream := none
    field := FieldLevel.initial
    driver := { state := .idle, loaded := false } }

end Sys2Proof.Machine
end

