-- ==== Sys2Proof/Machine/Ops.lean ====
section
/-! DEFINITION. The named operations over the lane registers, the byte spaces and the command pointer (00_scope.md
R7), taking a fault (60_exceptions.md R117), and reset, the only way back from one (R118, R130). -/

namespace Sys2Proof.Machine

/-! ### Byte spaces (20_memory.md R30 to R37) -/

/-- An address of Buf that is not listed reads 0x00: Buf is a zero-filled buffer (R31). -/
def bufUnlisted : Option Byte := some 0

/-- An address of Out that is not listed holds no value (R27). -/
def outUnlisted : Option Byte := none

/-- The canonical form of a byte space whose unlisted addresses read as `u`. -/
abbrev Memory.wf (u : Option Byte) (mem : Memory) : Prop :=
  mem.Pairwise (fun c d => c.1 < d.1) ∧ ∀ c ∈ mem, some c.2 ≠ u

/-- The byte at address `a`, `none` when it holds no value. -/
def readByte (u : Option Byte) : Memory → Nat → Option Byte
  | [], _ => u
  | c :: cs, a => if c.1 = a then some c.2 else readByte u cs a

/-- The space with byte `b` at address `a`, in canonical form. -/
def writeByte (u : Option Byte) : Memory → Nat → Byte → Memory
  | [], a, b => if some b = u then [] else [(a, b)]
  | c :: cs, a, b =>
      if a < c.1 then (if some b = u then c :: cs else (a, b) :: c :: cs)
      else if a = c.1 then (if some b = u then cs else (a, b) :: cs)
      else c :: writeByte u cs a b

/-- `MemWrite` (00_scope.md R7): the bytes, the first at address `a`. -/
def writeBytes (u : Option Byte) : Memory → Nat → List Byte → Memory
  | mem, _, [] => mem
  | mem, a, b :: bs => writeBytes u (writeByte u mem a b) (a + 1) bs

/-- BUFLEN = 128 + LEN (R31). -/
def State.bufLen (s : State) : Nat := Config.blockBytes + s.len

/-- NCHUNK = ceil(BUFLEN / 128) = 1 + ceil(LEN / 128) (R31), for a message of `len` bytes. -/
def chunkCount (len : Nat) : Nat := 1 + (len + 127) / 128

/-- `MemRead(a, 1)`: a byte of Buf, with the padding view of R32. -/
def State.bufByte (s : State) (a : Nat) : Byte :=
  if a < s.bufLen then (readByte bufUnlisted s.buf a).getD 0 else 0

/-- `MemRead(a, n)` (00_scope.md R7). -/
def State.memRead (s : State) (a n : Nat) : List Byte := (List.range n).map fun j => s.bufByte (a + j)

/-- `Σ b_j·2^(8j)` over the bytes, the first the least significant (R33). -/
def leValue : List Byte → Nat
  | [] => 0
  | b :: bs => b.toNat + 256 * leValue bs

/-- `LE64` (00_scope.md R7, 20_memory.md R33). -/
def le64 (bytes : List Byte) : Word64 := BitVec.ofNat 64 (leValue bytes)

/-- The eight bytes of a lane, least significant first (R34): byte `j` is `x[8j+7 : 8j]`. -/
def laneBytes (x : Word64) : List Byte := (List.range 8).map fun j => x.extractLsb' (8 * j) 8

/-! ### Lane registers (10_state.md R10 to R13) -/

/-- `L[a]`, `m[i]` (00_scope.md R7): the lane's value, `none` when it holds no value. -/
def State.lane (s : State) : LaneName → Option Word64
  | .v i => s.v[i]
  | .h i => s.h[i]
  | .m i => s.m[i]

/-- `L[a] <- x` (00_scope.md R7). -/
def State.setLane (s : State) (n : LaneName) (x : Option Word64) : State :=
  match n with
  | .v i => { s with v := s.v.set i x }
  | .h i => { s with h := s.h.set i x }
  | .m i => { s with m := s.m.set i x }

/-- The working vector replaced. -/
def State.setV (s : State) (v : Vector (Option Word64) 16) : State := { s with v := v }

/-- The chaining state replaced. -/
def State.setH (s : State) (h : Vector (Option Word64) 8) : State := { s with h := h }

/-- The message block replaced. -/
def State.setM (s : State) (m : Vector (Option Word64) 16) : State := { s with m := m }

/-- The byte counter written. -/
def State.setT (s : State) (t : Option Counter) : State := { s with t := t }

/-- Out replaced. -/
def State.setOut (s : State) (out : Memory) : State := { s with out := out }

/-- The field level replaced. -/
def State.setField (s : State) (f : FieldLevel) : State := { s with field := f }

/-- The driver's state replaced. -/
def State.setDriver (s : State) (d : Driver) : State := { s with driver := d }

/-- `cp <- cp + 1` (00_scope.md R7, 10_state.md R16). -/
def State.advance (s : State) : State := { s with cp := s.cp + 1 }

/-- Every lane of the file holds a value. -/
def allWritten {n : Nat} (lanes : Vector (Option Word64) n) : Bool :=
  decide (∀ i : Fin n, (lanes[i]).isSome = true)

/-- The values of a lane file; only lanes that hold a value are used. -/
def wordsOf {n : Nat} (lanes : Vector (Option Word64) n) : Vector Word64 n :=
  Vector.ofFn fun i => (lanes[i]).getD 0

/-- A lane file in which every lane holds the given value. -/
def written {n : Nat} (words : Vector Word64 n) : Vector (Option Word64) n :=
  Vector.ofFn fun i => some words[i]

/-- A lane file in which no lane holds a value (R27, R84). -/
def unwrittenLanes (n : Nat) : Vector (Option Word64) n := Vector.replicate n none

/-- The lanes `changed` take their values from `words`; the others stay as they are. -/
def overwrite {n : Nat} (changed : List (Fin n)) (words : Vector Word64 n)
    (lanes : Vector (Option Word64) n) : Vector (Option Word64) n :=
  Vector.ofFn fun i => if i ∈ changed then some words[i] else lanes[i]

/-! ### Faults and reset (60_exceptions.md R110, R117, R118; 70_reset_and_hazards.md R130) -/

/-- The FAULT code of a fault (R110). -/
def FaultCode.code : FaultCode → BitVec 8
  | .illegalCommand => 1
  | .unwrittenRead => 2
  | .chunkRange => 3
  | .configLength => 4
  | .constraintViolation => 5

/-- Fault entry (R117): FAULT takes the code of the first fault (R22) and nothing else is written; cp keeps its
index. -/
def State.enterFault (s : State) (c : FaultCode) : State :=
  { s with fault := if s.fault = 0 then c.code else s.fault }

/-- `raise` (00_scope.md R7): the command ends with the fault, all other state as before the command. -/
def raise (c : FaultCode) (s : State) : Result := .next (s.enterFault c)

/-- Reset (R130, R27): every piece of state at its reset value. The configuration registers and Buf are not
reset; the gadget is to be constructed, and its stream supplied, anew (R131). LABEL is kept with the other
configuration registers, as R27 says, where the table of R21 gives it the reset value absent: DEDUCED, log entry 4. -/
def State.hostReset (s : State) : State :=
  { State.reset with
    params := s.params
    nIn := s.nIn
    bwIn := s.bwIn
    len := s.len
    binaryOut := s.binaryOut
    padReq := s.padReq
    label := s.label
    buf := s.buf }

/-- R100: a final state, every command executed. -/
def State.final (s : State) : Bool :=
  s.built && s.fault == 0 && !s.refused && (s.stream.map List.length == some s.cp)

/-- R100: the run has ended: final, faulted or refused. -/
def State.runEnded (s : State) : Bool := s.final || s.fault != 0 || s.refused

/-- Fetch (10_state.md R16, R22, R23): the word at index cp goes on to `k`; where there is none to execute the step
stops. -/
def fetchThen (s : State) (k : CommandWord → Result) : Result :=
  if s.refused then .refused .configurationRefused
  else if s.fault ≠ 0 then .fault (.halted s.fault)
  else if s.built = false then .fault .notConstructed
  else
    match s.stream with
    | none => .fault .noStream
    | some words =>
      match words[s.cp]? with
      | none => .fault .runEnded
      | some w => k w

end Sys2Proof.Machine
end

