-- ==== Sys2Proof/Machine/Field.lean ====
section
/-! DEFINITION. The field level (00_scope.md R8, R9): wires and constraints, explode, pack and trim
(40_lane_arithmetic.md R60 to R65), and the constraints each command appends to the record (R66 to R70, R76, R78,
42_compression.md R84 to R87). -/

namespace Sys2Proof.Machine

/-! ### Wires and constraints (R8) -/

/-- The integer a wire takes under an assignment of the allocated wires. -/
def Wire.eval (assign : Nat → Int) : Wire → Int
  | .ofConst c => c
  | .ofId n => assign n
  | .add x y => x.eval assign + y.eval assign
  | .scale c x => c * x.eval assign

/-- The canonical value of a wire in the field of `p` elements (R8): an integer in 0 .. p-1. -/
def Wire.value (p : Nat) (assign : Nat → Int) (x : Wire) : Int := x.eval assign % (p : Int)

/-- The constraint holds in the field of `p` elements (R8). -/
abbrev Constraint.Holds (p : Nat) (assign : Nat → Int) : Constraint → Prop
  | .booleanity b => (p : Int) ∣ b.eval assign * (b.eval assign - 1)
  | .multiplication z x y => (p : Int) ∣ z.eval assign - x.eval assign * y.eval assign
  | .linear sum w => (p : Int) ∣ sum.eval assign - w.eval assign

/-- A constraint holds, as a test. -/
def Constraint.holds (p : Nat) (assign : Nat → Int) : Constraint → Bool
  | .booleanity b => decide ((p : Int) ∣ b.eval assign * (b.eval assign - 1))
  | .multiplication z x y => decide ((p : Int) ∣ z.eval assign - x.eval assign * y.eval assign)
  | .linear sum w => decide ((p : Int) ∣ sum.eval assign - w.eval assign)

/-- R8: an assignment satisfies the constraints. -/
def Satisfies (p : Nat) (assign : Nat → Int) (record : List Constraint) : Prop :=
  ∀ c ∈ record, c.Holds p assign

/-! ### explode, pack and trim (R60 to R65) -/

/-- `n` new wires, the first with number `start`. -/
def newWires : Nat → Nat → List Wire
  | 0, _ => []
  | n + 1, start => Wire.ofId start :: newWires n (start + 1)

/-- `pack` (R61): `Σ b_i·2^i`, which emits no constraint. -/
def pack : List Wire → Wire
  | [] => Wire.ofConst 0
  | b :: bs => b.add ((pack bs).scale 2)

/-- The arena with `n` more wires allocated and the constraints appended (R24). -/
def Arena.emit (ar : Arena) (n : Nat) (cs : List Constraint) : Arena :=
  { nextWire := ar.nextWire + n, record := ar.record ++ cs }

/-- The constraints of `explode_n` (R60): booleanity of each bit, then the linear constraint. -/
def explodeConstraints (bits : List Wire) (w : Wire) : List Constraint :=
  bits.map .booleanity ++ [.linear (pack bits) w]

/-- `explode_n(w)` (R60): the bit wires and the arena after. -/
def explode (n : Nat) (w : Wire) (ar : Arena) : List Wire × Arena :=
  let bits := newWires n ar.nextWire
  (bits, ar.emit n (explodeConstraints bits w))

/-- `trim_n(s)` (R64): the lane of the low 64 bits; the carry wires are asserted by the linear constraint of
`explode_n` and discarded (R17). The low bits are the exploded form of the result (R67). -/
def trim (n : Nat) (s : Wire) (ar : Arena) : LaneRep × Arena :=
  let e := explode n s ar
  ({ packed := pack (e.1.take 64), bits := some (e.1.take 64) }, e.2)

/-! ### Lanes -/

/-- A lane that is a constant wire (R87). -/
def LaneRep.ofWord (x : Word64) : LaneRep := { packed := Wire.ofConst x.toNat, bits := none }

/-- The exploded bits of an operand of XOR or ROTR: those the lane holds where they are reused, else by
`explode_64` (R66, R70; 92_eei_decisions.md D27). -/
def bitsOf (reuse : Bool) (r : LaneRep) (ar : Arena) : List Wire × Arena :=
  match reuse, r.bits with
  | true, some bits => (bits, ar)
  | _, _ => explode 64 r.packed ar

/-- R63: `x + y - 2·π`, `π` the wire numbered `n`. -/
def xorBit (x y : Wire) (n : Nat) : Wire := (x.add y).add ((Wire.ofId n).scale (-2))

/-- R66: the result bits of an XOR, the product wires numbered from `n` on. -/
def xorBits : List Wire → List Wire → Nat → List Wire
  | x :: xs, y :: ys, n => xorBit x y n :: xorBits xs ys (n + 1)
  | _, _, _ => []

/-- R63, R66: the multiplication constraints of an XOR, `π_i = A_i·B_i`. -/
def xorConstraints : List Wire → List Wire → Nat → List Constraint
  | x :: xs, y :: ys, n => .multiplication (Wire.ofId n) x y :: xorConstraints xs ys (n + 1)
  | _, _, _ => []

/-- A lane from its exploded bits (R61): packed, the bits kept (R25). -/
def LaneRep.ofBits (bits : List Wire) : LaneRep := { packed := pack bits, bits := some bits }

/-- R66, field level. A constant lane is exploded like any other, and the saving R87 derives for a constant bit is not taken:
DEDUCED, log entry 12. -/
def xorRep (reuse : Bool) (a b : LaneRep) (ar : Arena) : LaneRep × Arena :=
  let ea := bitsOf reuse a ar
  let eb := bitsOf reuse b ea.2
  (LaneRep.ofBits (xorBits ea.1 eb.1 eb.2.nextWire),
    eb.2.emit (xorBits ea.1 eb.1 eb.2.nextWire).length (xorConstraints ea.1 eb.1 eb.2.nextWire))

/-- R67, field level: the raw sum, trimmed at 65 bits. -/
def addRep (a b : LaneRep) (ar : Arena) : LaneRep × Arena := trim Config.trim2 (a.packed.add b.packed) ar

/-- R68, field level: the raw sum of three, trimmed at 66 bits. -/
def addmRep (a b c : LaneRep) (ar : Arena) : LaneRep × Arena :=
  trim Config.trim3 ((a.packed.add b.packed).add c.packed) ar

/-- R70: the bits re-indexed, `C_i = A_((i + k) mod 64)`, and packed; no constraint of its own. -/
def rotrRep (reuse : Bool) (k : Nat) (a : LaneRep) (ar : Arena) : LaneRep × Arena :=
  let ea := bitsOf reuse a ar
  (LaneRep.ofBits (ea.1.rotate (k % 64)), ea.2)

/-! ### The field level of the commands -/

/-- The representation of a lane. -/
def FieldLevel.rep (f : FieldLevel) : LaneName → LaneRep
  | .v i => f.v[i]
  | .h i => f.h[i]
  | .m i => f.m[i]

/-- The field level with a lane's representation and the arena replaced. -/
def FieldLevel.put (f : FieldLevel) (n : LaneName) (r : LaneRep × Arena) : FieldLevel :=
  match n with
  | .v i => { f with v := f.v.set i r.1, arena := r.2 }
  | .h i => { f with h := f.h.set i r.1, arena := r.2 }
  | .m i => { f with m := f.m.set i r.1, arena := r.2 }

/-- XOR (R66). -/
def fieldXor (reuse : Bool) (d a b : LaneName) (f : FieldLevel) : FieldLevel :=
  f.put d (xorRep reuse (f.rep a) (f.rep b) f.arena)

/-- ADD (R67). -/
def fieldAdd (d a b : LaneName) (f : FieldLevel) : FieldLevel := f.put d (addRep (f.rep a) (f.rep b) f.arena)

/-- ADDM (R68). -/
def fieldAddm (d a b : LaneName) (mx : MsgIndex) (f : FieldLevel) : FieldLevel :=
  f.put d (addmRep (f.rep a) (f.rep b) (f.rep (.m mx)) f.arena)

/-- ROTR (R70). -/
def fieldRotr (reuse : Bool) (d a : LaneName) (k : Nat) (f : FieldLevel) : FieldLevel :=
  f.put d (rotrRep reuse k (f.rep a) f.arena)

/-- A constant written to a lane, which adds no constraint (43_host_driver.md R99). -/
def fieldConst (d : LaneName) (x : Word64) (f : FieldLevel) : FieldLevel := f.put d (LaneRep.ofWord x, f.arena)

/-- An input wire written to a lane (43_host_driver.md R99): a new wire, made a lane by its own `explode_64` (R62; log
entry 10). -/
def fieldInput (d : LaneName) (f : FieldLevel) : FieldLevel :=
  let w := Wire.ofId f.arena.nextWire
  let e := explode 64 w (f.arena.emit 1 [])
  f.put d ({ packed := w, bits := some e.1 }, e.2)

/-- Steps 2, 4, 6 and 8 of G (R76): XOR followed by ROTR. -/
def fieldXorRotr (reuse : Bool) (d a : LaneName) (k : Nat) (f : FieldLevel) : FieldLevel :=
  fieldRotr reuse d d k (fieldXor reuse d d a f)

/-- G (R76): steps 1 and 5 are ADDM, steps 3 and 7 are ADD, the others XOR and ROTR. -/
def fieldMix (reuse : Bool) (a b c d : WorkIndex) (x y : MsgIndex) (f : FieldLevel) : FieldLevel :=
  let f := fieldAddm (.v a) (.v a) (.v b) x f
  let f := fieldXorRotr reuse (.v d) (.v a) 32 f
  let f := fieldAdd (.v c) (.v c) (.v d) f
  let f := fieldXorRotr reuse (.v b) (.v c) 24 f
  let f := fieldAddm (.v a) (.v a) (.v b) y f
  let f := fieldXorRotr reuse (.v d) (.v a) 16 f
  let f := fieldAdd (.v c) (.v c) (.v d) f
  fieldXorRotr reuse (.v b) (.v c) 63 f

/-- ROUND (R78): its eight G calls. -/
def fieldRound (reuse : Bool) (s : Vector (Fin 16) 16) (f : FieldLevel) : FieldLevel :=
  let f := fieldMix reuse 0 4 8 12 s[0] s[1] f
  let f := fieldMix reuse 1 5 9 13 s[2] s[3] f
  let f := fieldMix reuse 2 6 10 14 s[4] s[5] f
  let f := fieldMix reuse 3 7 11 15 s[6] s[7] f
  let f := fieldMix reuse 0 5 10 15 s[8] s[9] f
  let f := fieldMix reuse 1 6 11 12 s[10] s[11] f
  let f := fieldMix reuse 2 7 8 13 s[12] s[13] f
  fieldMix reuse 3 4 9 14 s[14] s[15] f

/-- INIT (R87): every lane of h a constant wire. -/
def fieldInit (h : Vector Word64 8) (f : FieldLevel) : FieldLevel :=
  { f with h := Vector.ofFn fun i => LaneRep.ofWord h[i] }

/-- The wire of a Buf address (R87, 43_host_driver.md R92): message byte `i` is input wire `i` of the gadget; every other
byte is a constant. -/
def bufWire (s : State) (a : Nat) : Wire :=
  if Config.blockBytes ≤ a ∧ a < s.bufLen then Wire.ofId (s.inputBase + (a - Config.blockBytes))
  else Wire.ofConst (s.bufByte a).toNat

/-- `explode_8` of each wire in turn (R87): all the bits, in order, and the arena after. -/
def explodeBytes : List Wire → Arena → List Wire × Arena
  | [], ar => ([], ar)
  | w :: ws, ar =>
      let e := explode 8 w ar
      let r := explodeBytes ws e.2
      (e.1 ++ r.1, r.2)

/-- LDCHUNK (R87): the 128 byte wires exploded; lane i packs the 64 bits of its eight bytes. -/
def fieldLoad (wires : List Wire) (f : FieldLevel) : FieldLevel :=
  let e := explodeBytes wires f.arena
  { f with m := Vector.ofFn fun i => LaneRep.ofBits ((e.1.drop (64 * i.val)).take 64), arena := e.2 }

/-- SEED (R83, R87): v[0..7] take h's lanes, v[8..15] constant wires. R83 and R87 do not say whether the copy carries the
exploded bits h[i] holds, and D27 speaks of a lane's own last XOR, ROTR or trim; here it carries packed wire and bits: DESIGN
CHOICE, log entry 18. -/
def fieldSeed (upper : Vector Word64 8) (f : FieldLevel) : FieldLevel :=
  { f with
    v := Vector.ofFn fun i => if lt : i.val < 8 then f.h[i.val] else LaneRep.ofWord upper[i.val - 8] }

/-- FEED of lane i (R84): two XORs. -/
def fieldFeedLane (reuse : Bool) (f : FieldLevel) (i : Fin 8) : FieldLevel :=
  let f := fieldXor reuse (.h i) (.h i) (.v ⟨i.val, by omega⟩) f
  fieldXor reuse (.h i) (.h i) (.v ⟨i.val + 8, by omega⟩) f

/-- The lanes FEED goes through, in order (R84). -/
def feedOrder : List (Fin 8) := [0, 1, 2, 3, 4, 5, 6, 7]

/-- FEED (R84): the XORs, then v holds no value. -/
def fieldFeed (reuse : Bool) (f : FieldLevel) : FieldLevel :=
  { feedOrder.foldl (fieldFeedLane reuse) f with v := Vector.replicate 16 LaneRep.unwritten }

/-- COMPRESS (R85): SEED, twelve rounds, FEED. -/
def fieldCompress (p : Config.Params) (upper : Vector Word64 8) (rows : List (Vector (Fin 16) 16)) (f : FieldLevel) :
    FieldLevel :=
  fieldFeed p.reuseExploded (rows.foldl (fun f s => fieldRound p.reuseExploded s f) (fieldSeed upper f))

/-- Groups of eight bits packed into byte wires (R87). -/
def packBytes : Nat → List Wire → List Wire
  | 0, _ => []
  | n + 1, bits => pack (bits.take 8) :: packBytes n (bits.drop 8)

/-- STDIG of one lane (R87): its bits, packed by eight. R87 does not say whether bits the lane holds are reused, and D27
speaks of XOR and ROTR only; here REUSE_EXPLODED decides it as for those two: DESIGN CHOICE, log entry 17. -/
def storeLane (reuse : Bool) (r : LaneRep) (ar : Arena) : List Wire × Arena :=
  let e := bitsOf reuse r ar
  (packBytes 8 e.1, e.2)

/-- STDIG (R87): each output byte the pack of eight exploded bits of h[0..3]. -/
def fieldStore (reuse : Bool) (f : FieldLevel) : FieldLevel :=
  let e0 := storeLane reuse f.h[0] f.arena
  let e1 := storeLane reuse f.h[1] e0.2
  let e2 := storeLane reuse f.h[2] e1.2
  let e3 := storeLane reuse f.h[3] e2.2
  { f with out := e0.1 ++ e1.1 ++ e2.1 ++ e3.1, arena := e3.2 }

/-! ### Cost (70_reset_and_hazards.md R138) -/

/-- Whether a constraint is a multiplication constraint. -/
def Constraint.isMultiplication : Constraint → Bool
  | .multiplication _ _ _ => true
  | _ => false

/-- Whether a constraint is a booleanity constraint. -/
def Constraint.isBooleanity : Constraint → Bool
  | .booleanity _ => true
  | _ => false

/-- The multiplication constraints of the record (R138). -/
def Arena.multiplications (ar : Arena) : Nat := ar.record.countP Constraint.isMultiplication

/-- The booleanity constraints of the record (R138). -/
def Arena.booleanities (ar : Arena) : Nat := ar.record.countP Constraint.isBooleanity

end Sys2Proof.Machine
end

