-- ==== Sys2Proof/Machine/Flags.lean ====
section
/-! DEFINITION. The block has no flags (10_state.md R17). What a trim computes besides its result, the carry
(40_lane_arithmetic.md R64, R65), is asserted and discarded: it is defined here for statements and is no state. -/

namespace Sys2Proof.Machine

/-- The raw sum of two lanes (R65). -/
def rawSum2 (a b : Word64) : Nat := a.toNat + b.toNat

/-- The raw sum of three lanes (R65). -/
def rawSum3 (a b c : Word64) : Nat := a.toNat + b.toNat + c.toNat

/-- R64: the low 64 bits of a raw sum, the lane a trim returns. -/
def trimLow (s : Nat) : Word64 := BitVec.ofNat 64 s

/-- R64: the carry of a raw sum, `floor(s / 2^64)`. -/
def trimCarry (s : Nat) : Nat := s / 2 ^ 64

end Sys2Proof.Machine
end

