-- ==== Sys2Proof/Machine/LaneOps.lean ====
section
/-! DEFINITION. The value level of the lane arithmetic, the mix function, the round and the compression call
(40_lane_arithmetic.md R66 to R69, 41_mix_round.md R74 to R80, 42_compression.md R81 to R85), as functions of lane
values. -/

namespace Sys2Proof.Machine

/-- R67: `(a + b) mod 2^64`, the trim of the raw sum. -/
def sum2 (a b : Word64) : Word64 := trimLow (rawSum2 a b)

/-- R68: `(a + b + c) mod 2^64`. -/
def sum3 (a b c : Word64) : Word64 := trimLow (rawSum3 a b c)

/-- R69: right rotation by any amount, `((a >> k') | (a << (64 - k'))) mod 2^64` with `k' = k mod 64`. -/
def rotr (a : Word64) (k : Nat) : Word64 := (a >>> (k % 64)) ||| (a <<< (64 - k % 64))

/-- R76: the eight steps of the mix function, in order, each on the lanes the earlier steps wrote; `mx`, `my` are the
values of m[x] and m[y]. -/
def mix (v : Vector Word64 16) (a b c d : Fin 16) (mx my : Word64) : Vector Word64 16 :=
  let v := v.set a (sum3 v[a] v[b] mx)
  let v := v.set d (rotr (v[d] ^^^ v[a]) 32)
  let v := v.set c (sum2 v[c] v[d])
  let v := v.set b (rotr (v[b] ^^^ v[c]) 24)
  let v := v.set a (sum3 v[a] v[b] my)
  let v := v.set d (rotr (v[d] ^^^ v[a]) 16)
  let v := v.set c (sum2 v[c] v[d])
  v.set b (rotr (v[b] ^^^ v[c]) 63)

/-- R75: round r uses row `SIGMA[r mod 10]`. -/
def sigmaRow (p : Config.Params) (r : Nat) : Vector (Fin 16) 16 := p.sigma[r % 10]'(Nat.mod_lt r (by decide))

/-- R78, the four column calls. -/
def columns (s : Vector (Fin 16) 16) (m v : Vector Word64 16) : Vector Word64 16 :=
  let v := mix v 0 4 8 12 m[s[0]] m[s[1]]
  let v := mix v 1 5 9 13 m[s[2]] m[s[3]]
  let v := mix v 2 6 10 14 m[s[4]] m[s[5]]
  mix v 3 7 11 15 m[s[6]] m[s[7]]

/-- R78, the four diagonal calls. -/
def diagonals (s : Vector (Fin 16) 16) (m v : Vector Word64 16) : Vector Word64 16 :=
  let v := mix v 0 5 10 15 m[s[8]] m[s[9]]
  let v := mix v 1 6 11 12 m[s[10]] m[s[11]]
  let v := mix v 2 7 8 13 m[s[12]] m[s[13]]
  mix v 3 4 9 14 m[s[14]] m[s[15]]

/-- R78: one round, columns before diagonals. -/
def roundWords (p : Config.Params) (r : Nat) (m v : Vector Word64 16) : Vector Word64 16 :=
  diagonals (sigmaRow p r) m (columns (sigmaRow p r) m v)

/-- R80: rounds 0 to 11 in that order. -/
def allRounds (p : Config.Params) (m v : Vector Word64 16) : Vector Word64 16 :=
  (List.range Config.numRounds).foldl (fun v r => roundWords p r m v) v

/-- R81: the chaining state INIT writes. -/
def initWords (p : Config.Params) : Vector Word64 8 := p.iv.set 0 (p.iv[0] ^^^ Config.paramWord)

/-- R83: `t[63:0]` and `t[127:64]`. -/
def counterLow (t : Counter) : Word64 := t.extractLsb' 0 64
def counterHigh (t : Counter) : Word64 := t.extractLsb' 64 64

/-- R83: the lanes v[8..15], IV with the counter and the final flag injected. -/
def seedUpper (p : Config.Params) (t : Counter) (f : Bool) : Vector Word64 8 := #v[
  p.iv[0], p.iv[1], p.iv[2], p.iv[3],
  p.iv[4] ^^^ counterLow t, p.iv[5] ^^^ counterHigh t,
  if f then p.iv[6] ^^^ 0xffffffffffffffff else p.iv[6], p.iv[7]]

/-- R83: the seeded working vector, v[0..7] from h and v[8..15] from IV. -/
def seedWords (p : Config.Params) (h : Vector Word64 8) (t : Counter) (f : Bool) : Vector Word64 16 :=
  Vector.ofFn fun i => if lt : i.val < 8 then h[i.val] else (seedUpper p t f)[i.val - 8]

/-- R84: the feed-forward, `h[i] ⊕ v[i] ⊕ v[i + 8]`. -/
def feedWords (h : Vector Word64 8) (v : Vector Word64 16) : Vector Word64 8 :=
  Vector.ofFn fun i => h[i] ^^^ v[i.val] ^^^ v[i.val + 8]

/-- R85: the chaining state after one compression call. -/
def compressWords (p : Config.Params) (h : Vector Word64 8) (m : Vector Word64 16) (t : Counter) (f : Bool) :
    Vector Word64 8 :=
  feedWords h (allRounds p m (seedWords p h t f))

end Sys2Proof.Machine
end

