-- ==== Sys2Proof/Machine/Operands.lean ====
section
/-! DEFINITION. Operand forms: the lane address map (30_encoding.md R49) and the two checks every command makes
before it writes, legality first and then written operands (60_exceptions.md R116, R117). -/

namespace Sys2Proof.Machine

/-- R49: the lane a lane address selects, none for 24..31. -/
def laneOf (a : LaneAddr) : Option LaneName :=
  if h : a.val < 16 then some (.v ⟨a.val, h⟩)
  else if h' : a.val - 16 < 8 then some (.h ⟨a.val - 16, h'⟩)
  else none

/-- R49: the lane address of a working lane. -/
def workAddr (i : WorkIndex) : LaneAddr := ⟨i.val, by omega⟩

/-- R51 (c): three lane addresses, or ILLEGAL_COMMAND. -/
def withLanes3 (rd rs1 rs2 : LaneAddr) (s : State) (k : LaneName → LaneName → LaneName → Result) : Result :=
  match laneOf rd, laneOf rs1, laneOf rs2 with
  | some d, some a, some b => k d a b
  | _, _, _ => raise .illegalCommand s

/-- R51 (c): two lane addresses (ROTR), or ILLEGAL_COMMAND. -/
def withLanes2 (rd rs1 : LaneAddr) (s : State) (k : LaneName → LaneName → Result) : Result :=
  match laneOf rd, laneOf rs1 with
  | some d, some a => k d a
  | _, _ => raise .illegalCommand s

/-- R10: the value of an operand lane, or UNWRITTEN_READ. -/
def withValue (x : Option Word64) (s : State) (k : Word64 → Result) : Result :=
  match x with
  | some w => k w
  | none => raise .unwrittenRead s

/-- "if any of … holds no value: raise UNWRITTEN_READ" (R76, R78, R83 to R86). -/
def whenWritten (operands : Bool) (s : State) (next : State) : Result :=
  if operands then .next next else raise .unwrittenRead s

end Sys2Proof.Machine
end

