-- ==== Sys2Proof/Machine/Compression.lean ====
section
/-! DEFINITION. INIT, LDCHUNK, SEED, FEED, COMPRESS and STDIG (42_compression.md R81 to R87). -/

namespace Sys2Proof.Machine

/-- INIT (R81): reads no lane. -/
def execInit (s : State) : Result :=
  .next ((s.setH (written (initWords s.params))).setField (fieldInit (initWords s.params) s.field)).advance

/-- The message lanes of chunk k (R82, 20_memory.md R33). -/
def chunkWords (s : State) (k : Nat) : Vector Word64 16 :=
  Vector.ofFn fun i => le64 (s.memRead (Config.blockBytes * k + 8 * i.val) 8)

/-- The byte counter of chunk k, `min(128·(k + 1), BUFLEN)` (R82). -/
def chunkCounter (s : State) (k : Nat) : Counter := BitVec.ofNat 128 (min (Config.blockBytes * (k + 1)) s.bufLen)

/-- The byte wires of chunk k (R87). -/
def chunkWires (s : State) (k : Nat) : List Wire :=
  (List.range Config.blockBytes).map fun j => bufWire s (Config.blockBytes * k + j)

/-- LDCHUNK (R82). -/
def execLdchunk (k : ChunkIndex) (s : State) : Result :=
  if s.bufLen ≤ Config.blockBytes * k.val then raise .chunkRange s
  else
    .next (((s.setM (written (chunkWords s k.val))).setT (some (chunkCounter s k.val))).setField
      (fieldLoad (chunkWires s k.val) s.field)).advance

/-- SEED (R83). -/
def execSeed (f : Bool) (s : State) : Result :=
  whenWritten (allWritten s.h && s.t.isSome) s
    ((s.setV (written (seedWords s.params (wordsOf s.h) (s.t.getD 0) f))).setField
      (fieldSeed (seedUpper s.params (s.t.getD 0) f) s.field)).advance

/-- FEED (R84); v holds no value after it. -/
def execFeed (s : State) : Result :=
  whenWritten (allWritten s.h && allWritten s.v) s
    (((s.setH (written (feedWords (wordsOf s.h) (wordsOf s.v)))).setV (unwrittenLanes 16)).setField
      (fieldFeed s.params.reuseExploded s.field)).advance

/-- The SIGMA rows of the twelve rounds (R75, R80). -/
def scheduleRows (p : Config.Params) : List (Vector (Fin 16) 16) := (List.range Config.numRounds).map (sigmaRow p)

/-- COMPRESS (R85); the operand check comes once, before SEED, and v holds no value after it. -/
def execCompress (f : Bool) (s : State) : Result :=
  whenWritten (allWritten s.h && allWritten s.m && s.t.isSome) s
    (((s.setH (written (compressWords s.params (wordsOf s.h) (wordsOf s.m) (s.t.getD 0) f))).setV
        (unwrittenLanes 16)).setField
      (fieldCompress s.params (seedUpper s.params (s.t.getD 0) f) (scheduleRows s.params) s.field)).advance

/-- The digest bytes: h[0..3], each least significant byte first (R86, 20_memory.md R34). -/
def digestBytes (h : Vector Word64 8) : List Byte := laneBytes h[0] ++ laneBytes h[1] ++ laneBytes h[2] ++ laneBytes h[3]

/-- h[0..3] hold a value (R86). -/
def digestReadable (s : State) : Bool := (s.h[0]).isSome && (s.h[1]).isSome && (s.h[2]).isSome && (s.h[3]).isSome

/-- STDIG (R86): Out[0..31], h unchanged. -/
def execStdig (s : State) : Result :=
  whenWritten (digestReadable s) s
    ((s.setOut (writeBytes outUnlisted s.out 0 (digestBytes (wordsOf s.h)))).setField
      (fieldStore s.params.reuseExploded s.field)).advance

end Sys2Proof.Machine
end

