-- ==== Sys2Proof/Machine/LaneArith.lean ====
section
/-! DEFINITION. The lane commands XOR, ADD, ADDM and ROTR (40_lane_arithmetic.md R66 to R70). -/

namespace Sys2Proof.Machine

/-- A lane command's effect: the result to its destination, the field level replaced, cp advanced. -/
def State.writeResult (s : State) (d : LaneName) (x : Word64) (f : FieldLevel) : State :=
  ((s.setLane d (some x)).setField f).advance

/-- A command of two source lanes: read both, then write rd (R66, R67). -/
def binaryLane (rd rs1 rs2 : LaneAddr) (op : Word64 → Word64 → Word64)
    (circuit : LaneName → LaneName → LaneName → FieldLevel → FieldLevel) (s : State) : Result :=
  withLanes3 rd rs1 rs2 s fun d a b =>
    withValue (s.lane a) s fun x =>
      withValue (s.lane b) s fun y =>
        .next (s.writeResult d (op x y) (circuit d a b s.field))

/-- XOR (R66): `L[rd] <- L[rs1] ⊕ L[rs2]`. -/
def execXor (rd rs1 rs2 : LaneAddr) (s : State) : Result :=
  binaryLane rd rs1 rs2 (fun x y => x ^^^ y) (fieldXor s.params.reuseExploded) s

/-- ADD (R67): `L[rd] <- (L[rs1] + L[rs2]) mod 2^64`. -/
def execAdd (rd rs1 rs2 : LaneAddr) (s : State) : Result :=
  binaryLane rd rs1 rs2 sum2 fieldAdd s

/-- ADDM (R68): `L[rd] <- (L[rs1] + L[rs2] + m[mx]) mod 2^64`. -/
def execAddm (rd rs1 rs2 : LaneAddr) (mx : MsgIndex) (s : State) : Result :=
  withLanes3 rd rs1 rs2 s fun d a b =>
    withValue (s.lane a) s fun x =>
      withValue (s.lane b) s fun y =>
        withValue s.m[mx] s fun z =>
          .next (s.writeResult d (sum3 x y z) (fieldAddm d a b mx s.field))

/-- ROTR (R69): `L[rd] <- rotr(L[rs1], amt)`. -/
def execRotr (rd rs1 : LaneAddr) (amt : RotAmount) (s : State) : Result :=
  withLanes2 rd rs1 s fun d a =>
    withValue (s.lane a) s fun x =>
      .next (s.writeResult d (rotr x amt.val) (fieldRotr s.params.reuseExploded d a amt.val s.field))

end Sys2Proof.Machine
end

