-- ==== Sys2Proof/Machine/MixRound.lean ====
section
/-! DEFINITION. G and ROUND (41_mix_round.md R74 to R80). -/

namespace Sys2Proof.Machine

/-- The lanes G reads all hold a value (R76). -/
def mixReadable (a b c d : WorkIndex) (x y : MsgIndex) (s : State) : Bool :=
  (s.v[a]).isSome && (s.v[b]).isSome && (s.v[c]).isSome && (s.v[d]).isSome && (s.m[x]).isSome && (s.m[y]).isSome

/-- The working vector after G: the four named lanes take the values of the eight steps (R76); indices may
coincide (92_eei_decisions.md D21). -/
def mixLanes (a b c d : WorkIndex) (x y : MsgIndex) (s : State) : Vector (Option Word64) 16 :=
  overwrite [a, b, c, d] (mix (wordsOf s.v) a b c d ((s.m[x]).getD 0) ((s.m[y]).getD 0)) s.v

/-- G (R76). -/
def execG (a b c d : WorkIndex) (x y : MsgIndex) (s : State) : Result :=
  whenWritten (mixReadable a b c d x y s) s
    ((s.setV (mixLanes a b c d x y s)).setField
      (fieldMix s.params.reuseExploded a b c d x y s.field)).advance

/-- ROUND (R78); r >= 12 is illegal (R51 (d)). -/
def execRound (r : RoundNumber) (s : State) : Result :=
  if r.val < Config.numRounds then
    whenWritten (allWritten s.v && allWritten s.m) s
      ((s.setV (written (roundWords s.params r.val (wordsOf s.m) (wordsOf s.v)))).setField
        (fieldRound s.params.reuseExploded (sigmaRow s.params r.val) s.field)).advance
  else raise .illegalCommand s

end Sys2Proof.Machine
end

