-- ==== Sys2Proof/Machine/Dispatch.lean ====
section
/-! DEFINITION. One arm per command, each one call of its meaning. -/

namespace Sys2Proof.Machine

def exec (i : Instr) (s : State) : Host.Outcome State Fault Refusal :=
  match i with
  | .xor rd rs1 rs2 => Sys2Proof.Machine.execXor rd rs1 rs2 s
  | .add rd rs1 rs2 => Sys2Proof.Machine.execAdd rd rs1 rs2 s
  | .addm rd rs1 rs2 mx => Sys2Proof.Machine.execAddm rd rs1 rs2 mx s
  | .rotr rd rs1 amt => Sys2Proof.Machine.execRotr rd rs1 amt s
  | .g a b c d x y => Sys2Proof.Machine.execG a b c d x y s
  | .round r => Sys2Proof.Machine.execRound r s
  | .init => Sys2Proof.Machine.execInit s
  | .ldchunk k => Sys2Proof.Machine.execLdchunk k s
  | .seed f => Sys2Proof.Machine.execSeed f s
  | .feed => Sys2Proof.Machine.execFeed s
  | .compress f => Sys2Proof.Machine.execCompress f s
  | .stdig => Sys2Proof.Machine.execStdig s

end Sys2Proof.Machine
end

