-- ==== Sys2Proof/Machine/Driver.lean ====
section
/-! DEFINITION. The chunk driver of the host side (43_host_driver.md R95, R96). -/

namespace Sys2Proof.Machine

/-- A chunk number as LDCHUNK's operand; R92 admits only messages whose chunks LDCHUNK can name. -/
def chunkIndex (i : Nat) : ChunkIndex := Fin.ofNat Config.maxChunks i

/-- R95: the command the driver issues next, for a message of `len` bytes. -/
def Driver.issues (len : Nat) (d : Driver) : Instr :=
  match d.state, d.loaded with
  | .idle, _ => .init
  | .compressing i, false => .ldchunk (chunkIndex i)
  | .compressing _, true => .compress false
  | .finalCompress, false => .ldchunk (chunkIndex (chunkCount len - 1))
  | .finalCompress, true => .compress true
  | .done, _ => .stdig

/-- R95: the state for chunk i, Compressing(i) while more than 128 bytes remain unconsumed. -/
def driverAt (len i : Nat) : DriverState :=
  if Config.blockBytes < Config.blockBytes + len - Config.blockBytes * i then .compressing i else .finalCompress

/-- R95: the driver after the command it issues has completed. -/
def Driver.succ (len : Nat) (d : Driver) : Driver :=
  match d.state, d.loaded with
  | .idle, _ => { state := driverAt len 0, loaded := false }
  | .compressing i, false => { state := .compressing i, loaded := true }
  | .compressing i, true => { state := driverAt len (i + 1), loaded := false }
  | .finalCompress, false => { state := .finalCompress, loaded := true }
  | .finalCompress, true => { state := .done, loaded := false }
  | .done, _ => { state := .done, loaded := false }

/-- The driver after command i: it moves on when i is the command it issues, and stays where the host drives the
block with another stream (R96; log entry 5). -/
def Driver.follow (len : Nat) (d : Driver) (i : Instr) : Driver := if i = d.issues len then d.succ len else d

/-- R95, R100: what a completed command means for the driver; a faulting command leaves it. -/
def followDriver (i : Instr) : Result → Result
  | .next s => .next (if s.fault = 0 then s.setDriver (s.driver.follow s.len i) else s)
  | .fault r => .fault r
  | .refused r => .refused r

/-- R96: the driver's command stream for a message of `len` bytes. -/
def driverStream (len : Nat) : List Instr :=
  .init :: ((List.range (chunkCount len - 1)).flatMap fun k => [.ldchunk (chunkIndex k), .compress false])
    ++ [.ldchunk (chunkIndex (chunkCount len - 1)), .compress true, .stdig]

end Sys2Proof.Machine
end

