-- ==== Sys2Proof/Machine/HostPort.lean ====
section
/-! DEFINITION. The moves of the host and of the external evaluator (43_host_driver.md R90 to R94, R98 to R100;
60_exceptions.md R112 to R114). They are no steps of the block: each acts between commands. -/

namespace Sys2Proof.Machine

/-- The constructor's arguments (10_state.md R21): the input wires, each with the byte it carries, and
BW_IN, LEN, BINARY_OUT, PAD_REQ and LABEL. -/
structure ConstructArgs where
  inputs : List Byte
  bitWidth : Nat
  len : Nat
  binaryOut : Bool
  padReq : Bool
  label : Option String
  deriving DecidableEq, Repr

/-- What the lane-write port writes at field level: a constant or an input wire (R99). -/
inductive PortForm where
  | constant
  | inputWire
  deriving DecidableEq, Repr

/-- The moves (R90), and the evaluator's judgement of a witness (60_exceptions.md R113). -/
inductive HostMove where
  | reset
  | construct (args : ConstructArgs)
  | supplyStream (words : List CommandWord)
  | writeLane (form : PortForm) (lane : LaneName) (value : Nat)
  | writeCounter (value : Nat)
  | read
  | judge (witness : List Nat)
  deriving DecidableEq, Repr

/-- R91: `(n - 1)·bw <= 8·L <= n·bw`, over the integers. -/
def lengthAdmitted (n bw len : Nat) : Bool :=
  decide (((n : Int) - 1) * bw ≤ 8 * len) && decide (8 * len ≤ n * bw)

/-- R92: the configurations with a meaning; R5: a field that is too small is refused. -/
def configurationAdmitted (p : Config.Params) (bw len : Nat) : Bool :=
  bw == 8 && decide (chunkCount len ≤ Config.maxChunks) && p.fieldLargeEnough

/-- R94, 20_memory.md R31: KEY at 0..15, zeros to 127, message byte i at 128 + i. -/
def buildBuf (key : Vector Byte 16) (message : List Byte) : Memory :=
  writeBytes bufUnlisted (writeBytes bufUnlisted [] 0 key.toList) Config.blockBytes message

/-- The configuration registers written once at construction (R21). -/
def State.configure (s : State) (a : ConstructArgs) : State :=
  { s with
    nIn := a.inputs.length
    bwIn := a.bitWidth
    len := a.len
    binaryOut := a.binaryOut
    padReq := a.padReq
    label := a.label }

/-- R94: the buffer built, one new wire allocated for each input. -/
def State.buildGadget (s : State) (inputs : List Byte) : State :=
  { s with
    built := true
    inputBase := s.field.arena.nextWire
    buf := buildBuf s.params.key (inputs.take s.len)
    field := { s.field with arena := { s.field.arena with nextWire := s.field.arena.nextWire + inputs.length } } }

/-- Construction: the length check (R91), then the refusal (R92), then the buffer (R94), in that order
(60_exceptions.md R116). -/
def State.construct (s : State) (a : ConstructArgs) : State :=
  if lengthAdmitted a.inputs.length a.bitWidth a.len then
    if configurationAdmitted s.params a.bitWidth a.len then (s.configure a).buildGadget a.inputs
    else { s.configure a with refused := true }
  else (s.configure a).enterFault .configLength

/-- A lane written as a constant (R99). -/
def State.portConstant (s : State) (n : LaneName) (x : Word64) : State :=
  (s.setLane n (some x)).setField (fieldConst n x s.field)

/-- A lane written as an input wire that carries the value (R99). -/
def State.portInput (s : State) (n : LaneName) (x : Word64) : State :=
  { (s.setLane n (some x)).setField (fieldInput n s.field) with
    portInputs := s.portInputs ++ [(s.field.arena.nextWire, x)] }

/-- The host lane-write port (R99), in either form. A value of 2^64 or more, a raw field sum, does not meet the lane
invariant: CONSTRAINT_VIOLATION, and it is not written (40_lane_arithmetic.md R72; log entry 10). -/
def State.portWrite (s : State) (form : PortForm) (n : LaneName) (value : Nat) : State :=
  if value < 2 ^ 64 then
    match form with
    | .constant => s.portConstant n (BitVec.ofNat 64 value)
    | .inputWire => s.portInput n (BitVec.ofNat 64 value)
  else { s.enterFault .constraintViolation with violation := some (.rawLane value) }

/-- The assignment a witness gives the wires: a wire it does not list is 0. -/
def assignmentOf (witness : List Nat) (n : Nat) : Int := ((witness[n]?).getD 0 : Nat)

/-- The first constraint of the record that the witness violates (R113; R116 allows any one). -/
def firstViolated (p : Nat) (witness : List Nat) (record : List Constraint) : Option Constraint :=
  record.find? fun c => !c.holds p (assignmentOf witness)

/-- R113: the judgement of a witness over the whole record. -/
def State.judge (s : State) (witness : List Nat) : State :=
  match firstViolated s.params.fieldPrime witness s.field.arena.record with
  | none => s
  | some c => { s.enterFault .constraintViolation with violation := some (.violated c) }

/-- The host moves, each where R90 and R99 allow it; none where the host has no such move. -/
def hostMove (mv : HostMove) (s : State) : Option State :=
  match mv with
  | .reset => some s.hostReset
  | .construct a => if s.built || s.runEnded then none else some (s.construct a)
  | .supplyStream words =>
      if s.built && s.stream.isNone && !s.runEnded then some { s with stream := some words } else none
  | .writeLane form n value => if s.runEnded then none else some (s.portWrite form n value)
  | .writeCounter value =>
      if s.runEnded || decide (2 ^ 128 ≤ value) then none else some (s.setT (some (BitVec.ofNat 128 value)))
  | .read => if s.runEnded then some s else none
  | .judge witness => if s.final then some (s.judge witness) else none

/-- R98: the output bytes, Out[0] first; `none` before the first STDIG. -/
def State.outputWires (s : State) : Option (List Byte) :=
  (List.range Config.outBytes).mapM fun a => readByte outUnlisted s.out a

/-- The lower-case hex digits of a byte (R98). -/
def hexByte (b : Byte) : String := String.ofList [Nat.digitChar (b.toNat / 16), Nat.digitChar (b.toNat % 16)]

/-- R98: the hex spelling of the digest. -/
def State.digestHex (s : State) : Option String := s.outputWires.map fun bs => String.join (bs.map hexByte)

end Sys2Proof.Machine
end

