-- ==== Sys2Proof/Machine/Step.lean ====
section
/-! DEFINITION. One step of the block (10_state.md R16, 20_memory.md R38): fetch the word at cp, decode it, execute it;
the driver of the host side follows. Its parts stand in Ops, Decode, Dispatch and Driver. -/

namespace Sys2Proof.Machine

/-- A fetched word: an illegal word raises ILLEGAL_COMMAND before anything else is checked (60_exceptions.md
R116); a command executes, and the driver follows it. -/
def runWord (s : State) (w : CommandWord) : Result :=
  match decode w with
  | .illegal _ => raise .illegalCommand s
  | .command i => followDriver i (exec i s)

/-- One step of the machine. -/
def step (s : State) : Host.Outcome State Fault Refusal := fetchThen s (runWord s)

/-- The commands executed one after the other, without a stream, until one does not complete. -/
def execAll : List Instr → State → Result
  | [], s => .next s
  | i :: is, s =>
      match exec i s with
      | .next s' => if s'.fault = 0 then execAll is s' else .next s'
      | .fault r => .fault r
      | .refused r => .refused r

/-- The empty message's construction, for a machine that is not constructed (log entry 3). -/
def emptyMessage : ConstructArgs :=
  { inputs := [], bitWidth := 8, len := 0, binaryOut := false, padReq := false, label := none }

/-- A state whose next step fetches and runs the word: constructed, neither faulted nor refused, and the word at
index cp of the stream. It stands for the host's construct and supply-stream moves (log entry 3). -/
def State.withFetchWord (s : State) (nbits w : Nat) : State :=
  let s1 := if s.built then s else (s.configure emptyMessage).buildGadget []
  { s1 with
    fault := 0
    refused := false
    stream := some (List.replicate s.cp (0 : CommandWord) ++ [BitVec.ofNat 32 (w % 2 ^ nbits)]) }

end Sys2Proof.Machine
end

