-- ==== Sys2Proof/Machine/Pseudo.lean ====
section
/-! DEFINITION. The assembler's side of the encoding (30_encoding.md R55, R56): what each pseudo-instruction expands
to, and the text of a command. The machine sees neither. -/

namespace Sys2Proof.Machine

/-- R77: G as primitives, with the lane addresses of the four working lanes. -/
def mixExpansion (a b c d : LaneAddr) (x y : MsgIndex) : List Instr := [
  .addm a a b x, .xor d d a, .rotr d d 32, .add c c d, .xor b b c, .rotr b b 24,
  .addm a a b y, .xor d d a, .rotr d d 16, .add c c d, .xor b b c, .rotr b b 63]

/-- The rounds of COMPRESSX (R56, R80). -/
def allRoundCommands : List Instr := (List.range 12).map fun r => .round (Fin.ofNat 16 r)

/-- R56: the expansion of a pseudo-instruction. -/
def expand : Pseudo → List Instr
  | .xrr rd rs1 rs2 amt => [.xor rd rs1 rs2, .rotr rd rd amt]
  | .mov rd rs => [.rotr rd rs 0]
  | .gp a b c d x y => mixExpansion (workAddr a) (workAddr b) (workAddr c) (workAddr d) x y
  | .compressx f => .seed f :: allRoundCommands ++ [.feed]

/-- R55: `v0`..`v15`, `h0`..`h7`. -/
def asmLane (a : LaneAddr) : String := if a.val < 16 then "v" ++ Nat.repr a.val else "h" ++ Nat.repr (a.val - 16)

/-- R55: a working lane, a message lane, a decimal immediate. -/
def asmWork (i : WorkIndex) : String := "v" ++ Nat.repr i.val
def asmMsg (i : MsgIndex) : String := "m" ++ Nat.repr i.val
def asmImm (n : Nat) : String := "#" ++ Nat.repr n

/-- R55: the operands of a command, in order. -/
def asmOperands : Instr → List String
  | .xor rd rs1 rs2 => [asmLane rd, asmLane rs1, asmLane rs2]
  | .add rd rs1 rs2 => [asmLane rd, asmLane rs1, asmLane rs2]
  | .addm rd rs1 rs2 mx => [asmLane rd, asmLane rs1, asmLane rs2, asmMsg mx]
  | .rotr rd rs1 amt => [asmLane rd, asmLane rs1, asmImm amt.val]
  | .g a b c d x y => [asmWork a, asmWork b, asmWork c, asmWork d, asmMsg x, asmMsg y]
  | .round r => [asmImm r.val]
  | .init => []
  | .ldchunk k => [asmImm k.val]
  | .seed f => [asmImm f.toNat]
  | .feed => []
  | .compress f => [asmImm f.toNat]
  | .stdig => []

/-- R55: one command as a line of assembler text. -/
def asmText (i : Instr) : String :=
  match asmOperands i with
  | [] => i.mnemonic
  | ops => i.mnemonic ++ " " ++ String.intercalate ", " ops

end Sys2Proof.Machine
end

