-- ==== Sys2Proof/Safety.lean ====
section
/-! DEFINITION. What claims are stated in: the illegal words of R51 and the operand conditions of R111 spelled out,
the invariants of the machine, the correspondence of the field level with the value level (R9, R62, R73), and keyed
BLAKE2b-256 as a function of the message. -/

namespace Sys2Proof.Machine

/-! ### Illegal words and faulting operands -/

/-- 30_encoding.md R51, clause by clause on the bits of the word. -/
def IllegalWord (w : CommandWord) : Prop :=
  let op := w.extractLsb' 28 4
  let laneBits (lo : Nat) : Prop := 24 ≤ (w.extractLsb' lo 5).toNat
  -- (a)
  (op = 0x0 ∨ op = 0xD ∨ op = 0xE ∨ op = 0xF)
  -- (b)
  ∨ ((op = 0x1 ∨ op = 0x2) ∧ w.extractLsb' 0 13 ≠ 0)
  ∨ (op = 0x3 ∧ w.extractLsb' 0 9 ≠ 0)
  ∨ (op = 0x4 ∧ (w.extractLsb' 0 3 ≠ 0 ∨ w.extractLsb' 9 9 ≠ 0))
  ∨ (op = 0x5 ∧ w.extractLsb' 0 4 ≠ 0)
  ∨ (op = 0x6 ∧ w.extractLsb' 4 24 ≠ 0)
  ∨ ((op = 0x7 ∨ op = 0xA ∨ op = 0xC) ∧ w.extractLsb' 0 28 ≠ 0)
  ∨ ((op = 0x9 ∨ op = 0xB) ∧ w.extractLsb' 1 27 ≠ 0)
  -- (c)
  ∨ ((op = 0x1 ∨ op = 0x2 ∨ op = 0x3) ∧ (laneBits 23 ∨ laneBits 18 ∨ laneBits 13))
  ∨ (op = 0x4 ∧ (laneBits 23 ∨ laneBits 18))
  -- (d)
  ∨ (op = 0x6 ∧ 12 ≤ (w.extractLsb' 0 4).toNat)

/-- A lane address selects a lane that holds no value. -/
def AddrUnwritten (s : State) (a : LaneAddr) : Prop := ∃ n, laneOf a = some n ∧ s.lane n = none

/-- 60_exceptions.md R111, the column "UNWRITTEN_READ when". -/
def OperandUnwritten (s : State) : Instr → Prop
  | .xor _ rs1 rs2 => AddrUnwritten s rs1 ∨ AddrUnwritten s rs2
  | .add _ rs1 rs2 => AddrUnwritten s rs1 ∨ AddrUnwritten s rs2
  | .addm _ rs1 rs2 mx => AddrUnwritten s rs1 ∨ AddrUnwritten s rs2 ∨ s.m[mx] = none
  | .rotr _ rs1 _ => AddrUnwritten s rs1
  | .g a b c d x y =>
      s.v[a] = none ∨ s.v[b] = none ∨ s.v[c] = none ∨ s.v[d] = none ∨ s.m[x] = none ∨ s.m[y] = none
  | .round _ => (∃ i : Fin 16, s.v[i] = none) ∨ ∃ i : Fin 16, s.m[i] = none
  | .init => False
  | .ldchunk _ => False
  | .seed _ => (∃ i : Fin 8, s.h[i] = none) ∨ s.t = none
  | .feed => (∃ i : Fin 8, s.h[i] = none) ∨ ∃ i : Fin 16, s.v[i] = none
  | .compress _ => (∃ i : Fin 8, s.h[i] = none) ∨ (∃ i : Fin 16, s.m[i] = none) ∨ s.t = none
  | .stdig => s.h[0] = none ∨ s.h[1] = none ∨ s.h[2] = none ∨ s.h[3] = none

/-- 60_exceptions.md R111, the column "CHUNK_RANGE when". -/
def ChunkOutOfRange (s : State) : Instr → Prop
  | .ldchunk k => s.bufLen ≤ 128 * k.val
  | _ => False

/-! ### Invariants -/

/-- Both byte spaces are in canonical form, Buf lists only addresses below BUFLEN once built, and Out holds no byte or
all 32 (20_memory.md R30, R37). -/
structure MemoriesCanonical (s : State) : Prop where
  bufForm : Memory.wf bufUnlisted s.buf
  bufRange : s.built = true → ∀ c ∈ s.buf, c.1 < s.bufLen
  outForm : Memory.wf outUnlisted s.out
  outWhole : s.out = [] ∨ s.out.map (fun c => c.1) = List.range 32

/-- FAULT holds a code of R110, cp does not pass the end of the stream (10_state.md R16) and is 0 before there is one, a
gadget that is built passed the checks of 43_host_driver.md R91 and R92, and one that is not has no stream. -/
structure ControlLegal (s : State) : Prop where
  faultCode : s.fault.toNat ≤ 5
  pointer : ∀ words, s.stream = some words → s.cp ≤ words.length
  admitted : s.built = true →
    lengthAdmitted s.nIn s.bwIn s.len = true ∧ configurationAdmitted s.params s.bwIn s.len = true
  unbuilt : s.built = false → s.stream = none
  start : s.stream = none → s.cp = 0

/-- The registers that no command writes: the parameters (R20), the configuration registers (R21), REFUSED (R23),
Buf (20_memory.md R44), the stream (R42), whether the gadget is built, and its input wires. -/
structure SameHostSide (s t : State) : Prop where
  params : t.params = s.params
  nIn : t.nIn = s.nIn
  bwIn : t.bwIn = s.bwIn
  len : t.len = s.len
  binaryOut : t.binaryOut = s.binaryOut
  padReq : t.padReq = s.padReq
  label : t.label = s.label
  refused : t.refused = s.refused
  violation : t.violation = s.violation
  built : t.built = s.built
  inputBase : t.inputBase = s.inputBase
  portInputs : t.portInputs = s.portInputs
  buf : t.buf = s.buf
  stream : t.stream = s.stream

/-! ### The two levels (00_scope.md R9) -/

/-- The lane invariant (40_lane_arithmetic.md R62) for the value x: the packed wire has the value x, and the exploded
bits, where the lane holds them, are the 64 bits of x. -/
def LaneRep.Means (p : Nat) (assign : Nat → Int) (r : LaneRep) (x : Word64) : Prop :=
  r.packed.value p assign = x.toNat ∧
  ∀ bits, r.bits = some bits →
    bits.length = 64 ∧ ∀ i : Nat, ∀ b, bits[i]? = some b → b.value p assign = (x.getLsbD i).toNat

/-- Two assignments agree on the wires below n. -/
def AgreeBelow (n : Nat) (assign assign' : Nat → Int) : Prop := ∀ i < n, assign' i = assign i

/-- A command's circuit, from an arena and an assignment of the wires it has: the constraints it appends have exactly one
satisfying assignment of the new wires in the field of p elements, and under it the result lane means x (R73). -/
def UniquelyComputes (p : Nat) (assign : Nat → Int) (ar : Arena) (r : LaneRep × Arena) (x : Word64) : Prop :=
  ar.nextWire ≤ r.2.nextWire ∧
  ∃ new, r.2.record = ar.record ++ new ∧
    (∃ assign', AgreeBelow ar.nextWire assign assign' ∧ Satisfies p assign' new) ∧
    (∀ assign', AgreeBelow ar.nextWire assign assign' → Satisfies p assign' new → r.1.Means p assign' x) ∧
    ∀ assign' assign'', AgreeBelow ar.nextWire assign assign' → Satisfies p assign' new →
      AgreeBelow ar.nextWire assign assign'' → Satisfies p assign'' new →
      ∀ n, ar.nextWire ≤ n → n < r.2.nextWire → assign' n % (p : Int) = assign'' n % (p : Int)

/-- The allocated wires a wire mentions are all numbered below n. -/
def Wire.Below (n : Nat) : Wire → Prop
  | .ofConst _ => True
  | .ofId k => k < n
  | .add x y => x.Below n ∧ y.Below n
  | .scale _ x => x.Below n

/-- The wires a constraint mentions are all below n. -/
def Constraint.Below (n : Nat) : Constraint → Prop
  | .booleanity b => b.Below n
  | .multiplication z x y => z.Below n ∧ x.Below n ∧ y.Below n
  | .linear sum w => sum.Below n ∧ w.Below n

/-- The wires a lane's representation mentions are all below n. -/
def LaneRep.Below (n : Nat) (r : LaneRep) : Prop :=
  r.packed.Below n ∧ ∀ bits, r.bits = some bits → ∀ b ∈ bits, b.Below n

/-- Every wire the field level mentions is allocated. -/
structure FieldLevel.Allocated (f : FieldLevel) : Prop where
  record : ∀ c ∈ f.arena.record, c.Below f.arena.nextWire
  v : ∀ i : Fin 16, (f.v[i]).Below f.arena.nextWire
  h : ∀ i : Fin 8, (f.h[i]).Below f.arena.nextWire
  m : ∀ i : Fin 16, (f.m[i]).Below f.arena.nextWire
  out : ∀ w ∈ f.out, w.Below f.arena.nextWire

/-- A witness for the inputs of the state: it satisfies the record, input wire i of a built gadget carries message byte i
(43_host_driver.md R92), and every input wire the host's port has written carries its value (R99). -/
structure Witness (s : State) (assign : Nat → Int) : Prop where
  satisfies : Satisfies s.params.fieldPrime assign s.field.arena.record
  inputs : s.built = true → ∀ i < s.len,
    assign (s.inputBase + i) % (s.params.fieldPrime : Int) = (s.bufByte (128 + i)).toNat
  portInputs : ∀ c ∈ s.portInputs, assign c.1 % (s.params.fieldPrime : Int) = c.2.toNat

/-- Under the assignment every lane that holds a value means that value, and every byte of Out that STDIG wrote is
the value of its wire. -/
structure Corresponds (s : State) (assign : Nat → Int) : Prop where
  v : ∀ (i : Fin 16) x, s.v[i] = some x → (s.field.v[i]).Means s.params.fieldPrime assign x
  h : ∀ (i : Fin 8) x, s.h[i] = some x → (s.field.h[i]).Means s.params.fieldPrime assign x
  m : ∀ (i : Fin 16) x, s.m[i] = some x → (s.field.m[i]).Means s.params.fieldPrime assign x
  out : ∀ a b, readByte outUnlisted s.out a = some b →
    ∃ w, s.field.out[a]? = some w ∧ w.value s.params.fieldPrime assign = b.toNat

/-- The circuit built so far means what the block computed (R9, R73): every witness for the inputs gives every lane
its value, there is a witness, and it is unique on every allocated wire that is no message input. -/
structure CircuitCorrect (s : State) : Prop where
  prime : s.params.fieldPrime.Prime
  large : 2 ^ 66 < s.params.fieldPrime
  allocated : s.field.Allocated
  inputWires : s.built = true → s.len ≤ s.nIn ∧ s.inputBase + s.nIn ≤ s.field.arena.nextWire
  portWires : ∀ c ∈ s.portInputs, c.1 < s.field.arena.nextWire
  sound : ∀ assign, Witness s assign → Corresponds s assign
  complete : ∃ assign, Witness s assign
  unique : ∀ assign assign', Witness s assign → Witness s assign' →
    ∀ n < s.field.arena.nextWire, ¬ (s.built = true ∧ s.inputBase ≤ n ∧ n < s.inputBase + s.nIn) →
      assign n % (s.params.fieldPrime : Int) = assign' n % (s.params.fieldPrime : Int)

/-- A call of the mix function: four lanes and the values of its two message lanes. -/
abbrev MixCall := (Fin 16 × Fin 16 × Fin 16 × Fin 16) × Word64 × Word64

/-- The lanes of the four column calls and of the four diagonal calls (41_mix_round.md R78, R79). -/
def columnSets : List (Fin 16 × Fin 16 × Fin 16 × Fin 16) := [(0, 4, 8, 12), (1, 5, 9, 13), (2, 6, 10, 14), (3, 7, 11, 15)]
def diagonalSets : List (Fin 16 × Fin 16 × Fin 16 × Fin 16) := [(0, 5, 10, 15), (1, 6, 11, 12), (2, 7, 8, 13), (3, 4, 9, 14)]

/-- The mix calls performed in the order of the list. -/
def mixCalls (calls : List MixCall) (v : Vector Word64 16) : Vector Word64 16 :=
  calls.foldl (fun v c => mix v c.1.1 c.1.2.1 c.1.2.2.1 c.1.2.2.2 c.2.1 c.2.2) v

/-- The lanes of a call as a set. -/
def laneSet (q : Fin 16 × Fin 16 × Fin 16 × Fin 16) : List (Fin 16) := [q.1, q.2.1, q.2.2.1, q.2.2.2]

/-! ### Keyed BLAKE2b-256 of a message (20_memory.md R31 to R34, 43_host_driver.md R95) -/

/-- The prepared input: the key block and the message (R31). -/
def preparedInput (p : Config.Params) (message : List Byte) : List Byte :=
  p.key.toList ++ List.replicate 112 0 ++ message

/-- Chunk k of the prepared input, zero beyond its end (R32, R33). -/
def inputChunk (input : List Byte) (k : Nat) : Vector Word64 16 :=
  Vector.ofFn fun i => le64 ((List.range 8).map fun j => input.getD (128 * k + 8 * i.val + j) 0)

/-- The byte counter of chunk k (R82). -/
def inputCounter (input : List Byte) (k : Nat) : Counter := BitVec.ofNat 128 (min (128 * (k + 1)) input.length)

/-- The chaining state after the first k chunks, none of them the last (R95). -/
def chainAfter (p : Config.Params) (message : List Byte) : Nat → Vector Word64 8
  | 0 => initWords p
  | k + 1 =>
      compressWords p (chainAfter p message k) (inputChunk (preparedInput p message) k)
        (inputCounter (preparedInput p message) k) false

/-- The 32-byte digest (R86, R95). -/
def messageDigest (p : Config.Params) (message : List Byte) : List Byte :=
  let last := chunkCount message.length - 1
  digestBytes (compressWords p (chainAfter p message last) (inputChunk (preparedInput p message) last)
    (inputCounter (preparedInput p message) last) true)

/-- The state a driver run starts in: reset with the given parameters, the gadget constructed for the message, and the
driver's stream supplied (70_reset_and_hazards.md R131, R96). -/
def driverStart (p : Config.Params) (message : List Byte) : State :=
  let s := State.construct { State.reset with params := p }
    { inputs := message, bitWidth := 8, len := message.length, binaryOut := false, padReq := false, label := none }
  { s with stream := some ((driverStream message.length).map encode) }

end Sys2Proof.Machine
end

