-- ==== Sys2Proof/Certificates/Slice0/Obligations.lean ====
section
/-! DEFINITION. The statements about the model, from the numbered rules of the spec. -/

open Sys2Proof Sys2Proof.Machine

/-! ### Encoding (30_encoding.md) -/

/-- Decoding the word of a legal command gives the command back, with every operand (R46 to R48, R52). -/
def Obligations.DecodeEncodeRoundTrip : Prop :=
  ∀ i : Instr, i.wellFormed = true → decode (encode i) = .command i

/-- A word that decodes to a command is the word of that command, and the command is legal: no two words
decode to one command (R45 to R52). -/
def Obligations.EncodeDecodeRoundTrip : Prop :=
  ∀ w i, decode w = .command i → encode i = w ∧ i.wellFormed = true

/-- R51: the words the decoder rejects are exactly the illegal ones, clause by clause on the bits; the
all-zero word is one. -/
def Obligations.IllegalWordsAreThoseOfTheSpec : Prop :=
  (∀ w, (∃ why, decode w = .illegal why) ↔ IllegalWord w) ∧ (∃ why, decode 0 = .illegal why)

/-- R50: a row of the match/mask table selects every word that decodes to its mnemonic, and a selected word
decodes to that mnemonic unless a lane address or the round number makes it illegal. -/
def Obligations.MaskRowsSelectTheirCommands : Prop :=
  ∀ w,
    (∀ i, decode w = .command i → ∃ row ∈ opcodeRows, row.mnemonic = i.mnemonic ∧ row.selects w = true) ∧
    ∀ row ∈ opcodeRows, row.selects w = true →
      (∃ i, decode w = .command i ∧ i.mnemonic = row.mnemonic) ∨
      decode w = .illegal .laneAddress ∨ decode w = .illegal .roundNumber

/-- R54: every word decodes to exactly one command, whose fields are those of the word (the word is the command's encoding),
or is illegal by R51; and no word is selected by two rows. -/
def Obligations.DecodingIsTotalAndUnambiguous : Prop :=
  (∀ w, (∃ i, decode w = .command i ∧ encode i = w ∧ ∀ j, decode w = .command j → j = i) ∧ ¬ IllegalWord w ∨
    (∀ i, decode w ≠ .command i) ∧ IllegalWord w) ∧
  opcodeRows.Pairwise fun row row' => ∀ w, ¬ (row.selects w = true ∧ row'.selects w = true)

/-- R55: the example words decode to the commands the table gives. -/
def Obligations.ExampleWordsDecode : Prop :=
  decode 0x16300000 = .command (.xor 12 12 0) ∧ decode 0x24218000 = .command (.add 8 8 12) ∧
  decode 0x30008200 = .command (.addm 0 0 4 1) ∧ decode 0x421001F8 = .command (.rotr 4 4 63) ∧
  decode 0x5048C010 = .command (.g 0 4 8 12 0 1) ∧ decode 0x6000000B = .command (.round 11) ∧
  decode 0x70000000 = .command .init ∧ decode 0x80000001 = .command (.ldchunk 1) ∧
  decode 0x90000001 = .command (.seed true) ∧ decode 0xA0000000 = .command .feed ∧
  decode 0xB0000000 = .command (.compress false) ∧ decode 0xC0000000 = .command .stdig

/-- R49: 0..15 select v, 16..23 select h[a - 16], 24..31 nothing; no lane address names a message lane, and
no command with an address of 24 or more in a used field is decoded. -/
def Obligations.LaneAddressMap : Prop :=
  (∀ a : LaneAddr, ∀ i : Fin 16, laneOf a = some (.v i) ↔ a.val = i.val) ∧
  (∀ a : LaneAddr, ∀ i : Fin 8, laneOf a = some (.h i) ↔ a.val = 16 + i.val) ∧
  (∀ a : LaneAddr, laneOf a = none ↔ 24 ≤ a.val) ∧
  (∀ (a : LaneAddr) (i : Fin 16), laneOf a ≠ some (.m i)) ∧
  ∀ w : CommandWord, ∀ rd rs1 rs2 : LaneAddr,
    ((decode w = .command (.xor rd rs1 rs2) ∨ decode w = .command (.add rd rs1 rs2) ∨
        ∃ mx, decode w = .command (.addm rd rs1 rs2 mx)) → rd.val < 24 ∧ rs1.val < 24 ∧ rs2.val < 24) ∧
    ((∃ amt, decode w = .command (.rotr rd rs1 amt)) → rd.val < 24 ∧ rs1.val < 24)

/-! ### The step, faults and the end of a run (10_state.md, 60_exceptions.md, 43_host_driver.md) -/

/-- A step of a block that is constructed, neither refused nor faulted, and whose word at cp decodes to command
i, is i's meaning at that state; the driver of the host side follows, which changes the driver alone. -/
def Obligations.StepRunsTheFetchedCommand : Prop :=
  ∀ (s : State) (words : List CommandWord) (w : CommandWord) (i : Instr),
    s.refused = false → s.fault = 0 → s.built = true → s.stream = some words → words[s.cp]? = some w →
    decode w = .command i →
    step s = followDriver i (exec i s) ∧
    ∀ t, exec i s = .next t → ∃ d, step s = .next (t.setDriver d)

/-- R51: an illegal word, fetched, raises ILLEGAL_COMMAND; every other word is legal, that is, decodes to a command whose
operands are legal; the all-zero word is illegal. So does raise, in every state, a command whose operands make it illegal. -/
def Obligations.IllegalCommandsRaise : Prop :=
  (∀ (s : State) (words : List CommandWord) (w : CommandWord),
    s.refused = false → s.fault = 0 → s.built = true → s.stream = some words → words[s.cp]? = some w →
    IllegalWord w → step s = .next { s with fault := 1 }) ∧
  (∀ w, ¬ IllegalWord w → ∃ i, decode w = .command i ∧ i.wellFormed = true) ∧ IllegalWord 0 ∧
  ∀ (i : Instr) (s : State), i.wellFormed = false → s.fault = 0 → exec i s = .next { s with fault := 1 }

/-- R111: which fault a fetched word raises, and when; it raises at most one. -/
def Obligations.FaultsPerCommand : Prop :=
  ∀ (s : State) (w : CommandWord), s.fault = 0 → ∃ t, runWord s w = .next t ∧
    (t.fault = 1 ↔ IllegalWord w) ∧
    (t.fault = 2 ↔ ∃ i, decode w = .command i ∧ OperandUnwritten s i) ∧
    (t.fault = 3 ↔ ∃ i, decode w = .command i ∧ ChunkOutOfRange s i) ∧
    (t.fault = 0 ∨ t.fault = 1 ∨ t.fault = 2 ∨ t.fault = 3)

/-- Fault entry: a step that raises a fault writes FAULT and nothing else, cp included; the block then executes no
further command, and the state is not final (R117). That the next step stops, and by a reason named halted, is the
model's choice (log entry 2): R117 says only that no further command executes. -/
def Obligations.FaultEntryIsPrecise : Prop :=
  ∀ s t : State, step s = .next t → t.fault ≠ 0 →
    t = { s with fault := t.fault } ∧ (t.fault = 1 ∨ t.fault = 2 ∨ t.fault = 3) ∧
    step t = .fault (.halted t.fault) ∧ t.final = false

/-- R16: a step executes the word at index cp of the stream; it adds one to cp when the command completes and
keeps cp when it faults. -/
def Obligations.CommandPointerRule : Prop :=
  ∀ s t : State, step s = .next t →
    (∃ words w, s.stream = some words ∧ words[s.cp]? = some w ∧ step s = runWord s w) ∧
    (t.fault = 0 → t.cp = s.cp + 1) ∧ (t.fault ≠ 0 → t.cp = s.cp)

/-- R118: a faulted block takes no step, and of the host's moves only reset clears FAULT. -/
def Obligations.OnlyResetClearsFault : Prop :=
  ∀ s : State, s.fault ≠ 0 →
    (∀ t, step s ≠ .next t) ∧
    (∀ mv t, hostMove mv s = some t → mv ≠ .reset → t.fault = s.fault) ∧
    (∃ t, hostMove .reset s = some t ∧ t.fault = 0)

/-- R100: a run ends, and no command executes, when cp is the length of the stream, when FAULT is nonzero, or when
REFUSED is set; only the first is a final state. Before construction and before the stream there is none to execute. -/
def Obligations.EndOfRun : Prop :=
  ∀ s : State,
    (s.runEnded = true ↔
      (s.built = true ∧ s.fault = 0 ∧ s.refused = false ∧ ∃ words, s.stream = some words ∧ s.cp = words.length) ∨
      s.fault ≠ 0 ∨ s.refused = true) ∧
    (s.final = true → step s = .fault .runEnded) ∧
    (s.fault ≠ 0 → s.refused = false → step s = .fault (.halted s.fault)) ∧
    (s.refused = true → step s = .refused .configurationRefused) ∧
    (s.fault ≠ 0 ∨ s.refused = true → s.final = false) ∧
    (s.runEnded = false → s.built = false → step s = .fault .notConstructed) ∧
    (s.runEnded = false → s.built = true → s.stream = none → step s = .fault .noStream)

/-! ### Lane commands (40_lane_arithmetic.md) -/

/-- XOR completes whenever its lane addresses name lanes and its sources hold values, with the XOR of the values
read before the write; a command whose sources are one lane gives 0. -/
def Obligations.XorCompletes : Prop :=
  ∀ (s : State) (rd rs1 rs2 : LaneAddr) (d a b : LaneName) (x y : Word64),
    laneOf rd = some d → laneOf rs1 = some a → laneOf rs2 = some b →
    s.lane a = some x → s.lane b = some y →
    ∃ t, exec (.xor rd rs1 rs2) s = .next t ∧ t.fault = s.fault ∧ t.cp = s.cp + 1 ∧
      (∃ z, t.lane d = some z ∧ ∀ i < 64, z.getLsbD i = (x.getLsbD i ^^ y.getLsbD i)) ∧
      (a = b → t.lane d = some 0)

/-- ADD completes on the same terms with the sum modulo 2^64, computed exactly and then narrowed. -/
def Obligations.AddCompletes : Prop :=
  ∀ (s : State) (rd rs1 rs2 : LaneAddr) (d a b : LaneName) (x y : Word64),
    laneOf rd = some d → laneOf rs1 = some a → laneOf rs2 = some b →
    s.lane a = some x → s.lane b = some y →
    ∃ t z, exec (.add rd rs1 rs2) s = .next t ∧ t.fault = s.fault ∧ t.cp = s.cp + 1 ∧
      t.lane d = some z ∧ z.toNat = (x.toNat + y.toNat) % 2 ^ 64

/-- ADDM completes on the same terms with the sum of the two lanes and the message lane modulo 2^64. -/
def Obligations.AddmCompletes : Prop :=
  ∀ (s : State) (rd rs1 rs2 : LaneAddr) (mx : MsgIndex) (d a b : LaneName) (x y c : Word64),
    laneOf rd = some d → laneOf rs1 = some a → laneOf rs2 = some b →
    s.lane a = some x → s.lane b = some y → s.m[mx] = some c →
    ∃ t z, exec (.addm rd rs1 rs2 mx) s = .next t ∧ t.fault = s.fault ∧ t.cp = s.cp + 1 ∧
      t.lane d = some z ∧ z.toNat = (x.toNat + y.toNat + c.toNat) % 2 ^ 64

/-- ROTR completes whenever rd and rs1 name lanes and the source holds a value: bit i of the result is bit
(i + amt) mod 64 of the operand. -/
def Obligations.RotrCompletes : Prop :=
  ∀ (s : State) (rd rs1 : LaneAddr) (amt : RotAmount) (d a : LaneName) (x : Word64),
    laneOf rd = some d → laneOf rs1 = some a → s.lane a = some x →
    ∃ t z, exec (.rotr rd rs1 amt) s = .next t ∧ t.fault = s.fault ∧ t.cp = s.cp + 1 ∧
      t.lane d = some z ∧ ∀ i < 64, z.getLsbD i = x.getLsbD ((i + amt.val) % 64)

/-- The rotation laws of R71, for every amount: rotations add modulo 64, a rotation and its complement cancel
(also at a = 0), and rotation distributes over XOR. -/
def Obligations.RotationLaws : Prop :=
  (∀ (x : Word64) (a b : Nat), rotr (rotr x a) b = rotr x ((a + b) % 64)) ∧
  (∀ (x : Word64) (a : Nat), a < 64 → rotr (rotr x a) (64 - a) = x) ∧
  ∀ (x y : Word64) (k : Nat), rotr (x ^^^ y) k = rotr x k ^^^ rotr y k

/-- What XOR, ADD, ADDM and ROTR leave alone, whether they complete or fault: every lane but the destination, with its
field-level representation, every message lane, t, every byte of Out and Buf, everything on the host side, and the
driver. FAULT changes only when the command raises, and then nothing else changes. -/
def Obligations.LaneCommandFrame : Prop :=
  ∀ (s t : State) (rd rs1 rs2 : LaneAddr) (mx : MsgIndex) (amt : RotAmount) (i : Instr),
    (i = .xor rd rs1 rs2 ∨ i = .add rd rs1 rs2 ∨ i = .addm rd rs1 rs2 mx ∨ i = .rotr rd rs1 amt) →
    exec i s = .next t →
    (∀ n, laneOf rd ≠ some n → t.lane n = s.lane n ∧ t.field.rep n = s.field.rep n) ∧ t.m = s.m ∧ t.t = s.t ∧
    t.field.out = s.field.out ∧
    (∀ a, readByte outUnlisted t.out a = readByte outUnlisted s.out a) ∧ (∀ a, t.bufByte a = s.bufByte a) ∧
    SameHostSide s t ∧ t.driver = s.driver ∧
    (t.fault = s.fault ∨ t = { s with fault := t.fault })

/-! ### G and ROUND (41_mix_round.md) -/

/-- G completes whenever the six lanes it names hold values: the four named lanes take the values of the eight
steps on the values read, whether or not indices coincide (D21), and every other lane of v is unchanged. -/
def Obligations.MixCommandCompletes : Prop :=
  ∀ (s : State) (a b c d : WorkIndex) (x y : MsgIndex) (v : Vector Word64 16) (mx my : Word64),
    s.v[a] = some v[a] → s.v[b] = some v[b] → s.v[c] = some v[c] → s.v[d] = some v[d] →
    s.m[x] = some mx → s.m[y] = some my →
    ∃ t, exec (.g a b c d x y) s = .next t ∧ t.fault = s.fault ∧ t.cp = s.cp + 1 ∧
      (∀ i ∈ [a, b, c, d], t.v[i] = some (mix v a b c d mx my)[i]) ∧
      ∀ i, i ∉ [a, b, c, d] → t.v[i] = s.v[i]

/-- The eight steps of R76 on four distinct lanes, written out on the four values. -/
def Obligations.MixOfDistinctLanes : Prop :=
  ∀ (v : Vector Word64 16) (a b c d : Fin 16) (mx my : Word64), [a, b, c, d].Nodup →
    let a1 := v[a] + v[b] + mx
    let d1 := (v[d] ^^^ a1).rotateRight 32
    let c1 := v[c] + d1
    let b1 := (v[b] ^^^ c1).rotateRight 24
    let a2 := a1 + b1 + my
    let d2 := (d1 ^^^ a2).rotateRight 16
    let c2 := c1 + d2
    let b2 := (b1 ^^^ c2).rotateRight 63
    mix v a b c d mx my = (((v.set a a2).set b b2).set c c2).set d d2

/-- R77: G and its twelve primitive commands, written out, have the same effect on v, and on everything else, but that G
advances cp by 1 and the expansion by 12, and that the expansion can fault part-way, having written a lane, where G writes
none. -/
def Obligations.MixEqualsItsPrimitives : Prop :=
  (∀ (s t : State) (a b c d : WorkIndex) (x y : MsgIndex), s.fault = 0 →
    exec (.g a b c d x y) s = .next t → t.fault = 0 →
    let va := workAddr a
    let vb := workAddr b
    let vc := workAddr c
    let vd := workAddr d
    expand (.gp a b c d x y) =
      [.addm va va vb x, .xor vd vd va, .rotr vd vd 32, .add vc vc vd, .xor vb vb vc, .rotr vb vb 24,
        .addm va va vb y, .xor vd vd va, .rotr vd vd 16, .add vc vc vd, .xor vb vb vc, .rotr vb vb 63] ∧
    execAll (expand (.gp a b c d x y)) s = .next { t with cp := s.cp + 12 } ∧ t.cp = s.cp + 1) ∧
  ∃ (s t : State) (a b c d : WorkIndex) (x y : MsgIndex), s.fault = 0 ∧
    exec (.g a b c d x y) s = .next { s with fault := 2 } ∧
    execAll (expand (.gp a b c d x y)) s = .next t ∧ t.fault = 2 ∧ t.v ≠ s.v

/-- ROUND completes for every legal round number whenever all of v and m hold values: the eight G calls, columns
before diagonals, on the row SIGMA[r mod 10]. -/
def Obligations.RoundCompletes : Prop :=
  ∀ (s : State) (r : RoundNumber) (v m : Vector Word64 16), r.val < 12 → s.v = written v → s.m = written m →
    ∃ t, exec (.round r) s = .next t ∧ t.fault = s.fault ∧ t.cp = s.cp + 1 ∧
      t.v = written
        (let q := s.params.sigma[r.val % 10]'(Nat.mod_lt r.val (by decide))
         mixCalls [((0, 4, 8, 12), m[q[0]], m[q[1]]), ((1, 5, 9, 13), m[q[2]], m[q[3]]),
           ((2, 6, 10, 14), m[q[4]], m[q[5]]), ((3, 7, 11, 15), m[q[6]], m[q[7]]),
           ((0, 5, 10, 15), m[q[8]], m[q[9]]), ((1, 6, 11, 12), m[q[10]], m[q[11]]),
           ((2, 7, 8, 13), m[q[12]], m[q[13]]), ((3, 4, 9, 14), m[q[14]], m[q[15]])] v)

/-- R75: round r uses row SIGMA[r mod 10], so ROUND #10 and ROUND #11 are ROUND #0 and ROUND #1 in every state. -/
def Obligations.RowsRepeatAfterTenRounds : Prop :=
  (∀ (p : Config.Params) (r : Nat) (lt : r < 12),
    sigmaRow p r = p.sigma[if r < 10 then r else r - 10]'(by split <;> omega)) ∧
  ∀ s : State, exec (.round 10) s = exec (.round 0) s ∧ exec (.round 11) s = exec (.round 1) s

/-- R79: the four column calls touch disjoint lanes, so do the four diagonal calls; each diagonal set meets each
column set in one lane; either four may be performed in any order; and no diagonal call may move before a column call. -/
def Obligations.ColumnAndDiagonalOrder : Prop :=
  columnSets.Pairwise (fun p q => ∀ i ∈ laneSet p, i ∉ laneSet q) ∧
  diagonalSets.Pairwise (fun p q => ∀ i ∈ laneSet p, i ∉ laneSet q) ∧
  (∀ p ∈ columnSets, ∀ q ∈ diagonalSets, ((laneSet p).filter fun i => i ∈ laneSet q).length = 1) ∧
  (∀ (sets : List (Fin 16 × Fin 16 × Fin 16 × Fin 16)) (calls calls' : List MixCall) (v : Vector Word64 16),
    sets = columnSets ∨ sets = diagonalSets → calls.map (fun c => c.1) = sets → calls'.Perm calls →
    mixCalls calls' v = mixCalls calls v) ∧
  ∀ p ∈ columnSets, ∀ q ∈ diagonalSets, ∃ v, mixCalls [(p, 0, 0), (q, 0, 0)] v ≠ mixCalls [(q, 0, 0), (p, 0, 0)] v

/-! ### Compression commands (42_compression.md) -/

/-- INIT completes in every state: h[0] is IV[0] XOR 0x01011020, h[1..7] are IV[1..7]; with the default IV h[0] is
0x6a09e667f2bdd928. -/
def Obligations.InitCompletes : Prop :=
  ∀ s : State, ∃ t, exec .init s = .next t ∧ t.fault = s.fault ∧ t.cp = s.cp + 1 ∧
    t.h[0] = some (s.params.iv[0] ^^^ 0x01011020) ∧
    (∀ i : Fin 8, i ≠ 0 → t.h[i] = some s.params.iv[i]) ∧
    (s.params.iv = Config.defaultIv → t.h[0] = some 0x6a09e667f2bdd928)

/-- R33: LDCHUNK of a chunk that starts below BUFLEN completes, and byte j of m[i], bits 8j+7 to 8j, is the byte
at address 128k + 8i + j, the lowest address first. -/
def Obligations.ChunkLoadIsLittleEndian : Prop :=
  ∀ (s : State) (k : ChunkIndex), 128 * k.val < s.bufLen →
    ∃ t, exec (.ldchunk k) s = .next t ∧ t.fault = s.fault ∧ t.cp = s.cp + 1 ∧
      ∀ (i : Fin 16), ∃ x : Word64, t.m[i] = some x ∧
        ∀ j < 8, x.extractLsb' (8 * j) 8 = s.bufByte (128 * k.val + 8 * i.val + j)

/-- A completed LDCHUNK sets t to min(128(k + 1), BUFLEN), which is at most 2^35, so its upper half is 0 (log entry 7: the
spec's own bound, strictly below 2^35, fails for the last chunk LDCHUNK can name). -/
def Obligations.ChunkCounter : Prop :=
  ∀ (s t : State) (k : ChunkIndex), exec (.ldchunk k) s = .next t → 128 * k.val < s.bufLen →
    ∃ c : Counter, t.t = some c ∧ c.toNat = min (128 * (k.val + 1)) s.bufLen ∧
      c.toNat ≤ 2 ^ 35 ∧ counterHigh c = 0

/-- Bytes from BUFLEN on read 0 and do not count in t; LDCHUNK faults with CHUNK_RANGE, writing nothing else, exactly when
k is NCHUNK or more, and what it loads depends on no byte at 128·NCHUNK or beyond (R32). R32 gives the bytes below
128·NCHUNK only; that those beyond, which no command reads, read 0 as well is the model's choice (log entry 14). -/
def Obligations.ChunkRangeAndPadding : Prop :=
  ∀ (s : State), (∀ a, s.bufLen ≤ a → s.bufByte a = 0) ∧
    ∀ k : ChunkIndex, s.fault = 0 →
      (chunkCount s.len ≤ k.val → exec (.ldchunk k) s = .next { s with fault := 3 }) ∧
      (k.val < chunkCount s.len →
        (∃ t c, exec (.ldchunk k) s = .next t ∧ t.fault = 0 ∧ t.t = some c ∧ c.toNat ≤ s.bufLen) ∧
        (∀ i : Fin 16, ∀ j < 8, 128 * k.val + 8 * i.val + j < 128 * chunkCount s.len) ∧
        ∀ s' t t' : State, s'.len = s.len → (∀ a < 128 * chunkCount s.len, s'.bufByte a = s.bufByte a) →
          exec (.ldchunk k) s = .next t → exec (.ldchunk k) s' = .next t' → t'.m = t.m ∧ t'.t = t.t)

/-- SEED completes whenever h and t hold values: v[0..7] is h, v[8..15] is IV with the halves of t in v[12] and v[13], and
v[14] inverted when f = 1. -/
def Obligations.SeedCompletes : Prop :=
  ∀ (s : State) (f : Bool) (h : Vector Word64 8) (c : Counter), s.h = written h → s.t = some c →
    ∃ t, exec (.seed f) s = .next t ∧ t.fault = s.fault ∧ t.cp = s.cp + 1 ∧
      (∀ i : Fin 8, t.v[i.val] = some h[i]) ∧
      (∀ i : Fin 4, t.v[i.val + 8] = some s.params.iv[i.val]) ∧
      t.v[12] = some (s.params.iv[4] ^^^ BitVec.ofNat 64 (c.toNat % 2 ^ 64)) ∧
      t.v[13] = some (s.params.iv[5] ^^^ BitVec.ofNat 64 (c.toNat / 2 ^ 64)) ∧
      t.v[14] = some (if f then ~~~ s.params.iv[6] else s.params.iv[6]) ∧
      t.v[15] = some s.params.iv[7]

/-- FEED completes whenever h and v hold values: h[i] is h[i] XOR v[i] XOR v[i + 8], and no lane of v holds a value. -/
def Obligations.FeedCompletes : Prop :=
  ∀ (s : State) (h : Vector Word64 8) (v : Vector Word64 16), s.h = written h → s.v = written v →
    ∃ t, exec .feed s = .next t ∧ t.fault = s.fault ∧ t.cp = s.cp + 1 ∧
      (∀ i : Fin 8, t.h[i] = some (h[i] ^^^ v[i.val] ^^^ v[i.val + 8])) ∧ ∀ i : Fin 16, t.v[i] = none

/-- COMPRESS completes whenever h, m and t hold values: the seeded vector, twelve rounds in order, the feed-forward; no
lane of v holds a value after it. -/
def Obligations.CompressCompletes : Prop :=
  ∀ (s : State) (f : Bool) (h : Vector Word64 8) (m : Vector Word64 16) (c : Counter),
    s.h = written h → s.m = written m → s.t = some c →
    ∃ t, exec (.compress f) s = .next t ∧ t.fault = s.fault ∧ t.cp = s.cp + 1 ∧
      t.h = written (feedWords h ((List.range 12).foldl (fun v r => roundWords s.params r m v) (seedWords s.params h c f))) ∧
      ∀ i : Fin 16, t.v[i] = none

/-- R85: COMPRESS leaves the state that SEED, ROUND #0 to ROUND #11 and FEED leave one after the other, but for cp. -/
def Obligations.CompressEqualsItsExpansion : Prop :=
  ∀ (s t : State) (f : Bool), s.fault = 0 → exec (.compress f) s = .next t → t.fault = 0 →
    execAll (expand (.compressx f)) s = .next { t with cp := s.cp + 14 } ∧ t.cp = s.cp + 1

/-- R34: STDIG completes whenever h[0..3] hold values, h[4..7] need not, and writes byte j of h[i], bits 8j+7 to 8j, to
Out[8i + j]; no other address of Out changes. -/
def Obligations.DigestStoreIsLittleEndian : Prop :=
  ∀ (s : State) (x : Vector Word64 4), Memory.wf outUnlisted s.out → (∀ i : Fin 4, s.h[i.val] = some x[i]) →
    ∃ t, exec .stdig s = .next t ∧ t.fault = s.fault ∧ t.cp = s.cp + 1 ∧
      (∀ i : Fin 4, ∀ j < 8, readByte outUnlisted t.out (8 * i.val + j) = some (x[i].extractLsb' (8 * j) 8)) ∧
      ∀ a, 32 ≤ a → readByte outUnlisted t.out a = readByte outUnlisted s.out a

/-- What G, ROUND and SEED leave alone: h, m and their field-level representations, t, Out, Buf, the host side and the
driver. FAULT changes only when the command raises, and then nothing else changes. -/
def Obligations.WorkingVectorCommandFrame : Prop :=
  ∀ (s t : State) (i : Instr) (a b c d : WorkIndex) (x y : MsgIndex) (r : RoundNumber) (f : Bool),
    (i = .g a b c d x y ∨ i = .round r ∨ i = .seed f) → exec i s = .next t →
    t.h = s.h ∧ t.m = s.m ∧ t.t = s.t ∧
    t.field.h = s.field.h ∧ t.field.m = s.field.m ∧ t.field.out = s.field.out ∧
    (∀ a, readByte outUnlisted t.out a = readByte outUnlisted s.out a) ∧ (∀ a, t.bufByte a = s.bufByte a) ∧
    SameHostSide s t ∧ t.driver = s.driver ∧ (t.fault = s.fault ∨ t = { s with fault := t.fault })

/-- What INIT, FEED, COMPRESS, LDCHUNK and STDIG leave alone. INIT: all but h and cp; FEED and COMPRESS: all but h, v and cp;
LDCHUNK: all but m, t and cp; STDIG: all but Out and cp, and every lane and Buf as before; the field-level
representations alike. FAULT changes only when the command raises, and then nothing else changes. -/
def Obligations.ChainingCommandFrame : Prop :=
  ∀ (s t : State) (i : Instr) (k : ChunkIndex) (f : Bool),
    (i = .init ∨ i = .feed ∨ i = .compress f ∨ i = .ldchunk k ∨ i = .stdig) → exec i s = .next t →
    ((i = .init ∨ i = .ldchunk k ∨ i = .stdig) → t.v = s.v ∧ t.field.v = s.field.v) ∧
    ((i = .ldchunk k ∨ i = .stdig) → t.h = s.h ∧ t.field.h = s.field.h) ∧
    (i ≠ .ldchunk k → t.m = s.m ∧ t.field.m = s.field.m ∧ t.t = s.t) ∧
    (i ≠ .stdig → t.field.out = s.field.out ∧ ∀ a, readByte outUnlisted t.out a = readByte outUnlisted s.out a) ∧
    (∀ a, t.bufByte a = s.bufByte a) ∧ SameHostSide s t ∧ t.driver = s.driver ∧
    (t.fault = s.fault ∨ t = { s with fault := t.fault })

/-- The whole machine: m and t are written by LDCHUNK alone, Out by STDIG alone, and of the commands only FEED and COMPRESS
take a value away from a lane of v, none from any other lane (10_state.md R11 to R14, 20_memory.md R30). -/
def Obligations.WhoWritesWhat : Prop :=
  ∀ (s t : State) (i : Instr), exec i s = .next t →
    (t.m ≠ s.m ∨ t.t ≠ s.t → ∃ k, i = .ldchunk k) ∧ (t.out ≠ s.out → i = .stdig) ∧
    (∀ n, t.lane n = none → s.lane n ≠ none → (∃ j, n = .v j) ∧ (i = .feed ∨ ∃ f, i = .compress f))

/-- R44: neither a step nor a host move other than reset writes Buf or LEN once the gadget is constructed, and reset leaves
them too; no step writes the stream, the configuration registers or a parameter. -/
def Obligations.BufImmutableDuringRun : Prop :=
  (∀ s t : State, step s = .next t → SameHostSide s t) ∧
  ∀ (s t : State) (mv : HostMove), s.built = true → hostMove mv s = some t → t.buf = s.buf ∧ t.len = s.len

/-- R93: BINARY_OUT, PAD_REQ and LABEL have no effect: two states that differ in them alone take the same step but for
them, and a construction builds the same Buf, padding view, checks and output but for them. That a construction which fails the length
check or is refused writes the three registers too, which the construct clause takes in, is the model's choice (log entry 9). -/
def Obligations.ReservedParametersHaveNoEffect : Prop :=
  ∀ (s : State) (b p : Bool) (l : Option String),
    step { s with binaryOut := b, padReq := p, label := l } =
      (match step s with
      | .next t => .next { t with binaryOut := b, padReq := p, label := l }
      | .fault r => .fault r
      | .refused r => .refused r) ∧
    (∀ a : ConstructArgs, s.construct { a with binaryOut := b, padReq := p, label := l } =
      { s.construct a with binaryOut := b, padReq := p, label := l }) ∧
    (∀ x, State.bufByte { s with binaryOut := b, padReq := p, label := l } x = s.bufByte x) ∧
    State.outputWires { s with binaryOut := b, padReq := p, label := l } = s.outputWires

/-! ### Invariants -/

/-- Every step keeps the byte spaces in canonical form, Buf within BUFLEN and Out all or nothing; FAULT a code of R110, cp within
the stream, and a built gadget one that passed the checks of construction. -/
def Obligations.StepKeepsInvariants : Prop :=
  ∀ s t : State, MemoriesCanonical s → ControlLegal s → step s = .next t → MemoriesCanonical t ∧ ControlLegal t

/-- The host's moves and the evaluator's keep both invariants. -/
def Obligations.HostMovesKeepInvariants : Prop :=
  ∀ (s t : State) (mv : HostMove), MemoriesCanonical s → ControlLegal s → hostMove mv s = some t →
    MemoriesCanonical t ∧ ControlLegal t

/-- The state after reset meets both invariants. -/
def Obligations.ResetMeetsInvariants : Prop := MemoriesCanonical State.reset ∧ ControlLegal State.reset

/-- Reset, from any state, puts every piece of state at its reset value (R130); the configuration registers and Buf are not
reset (R27). That LABEL is kept with them, where the table of R21 gives it the reset value absent, is the model's choice (log
entry 4). And after a construction and a stream the first command to execute is the one at index 0 of the stream. -/
def Obligations.ResetValues : Prop :=
  ∀ s t : State, hostMove .reset s = some t →
    (∀ n, t.lane n = none) ∧ t.t = none ∧ t.cp = 0 ∧ t.fault = 0 ∧ t.refused = false ∧
    (∀ a, readByte outUnlisted t.out a = none) ∧ t.field.arena.record = [] ∧ t.driver.state = .idle ∧
    t.nIn = s.nIn ∧ t.bwIn = s.bwIn ∧ t.len = s.len ∧ t.binaryOut = s.binaryOut ∧ t.padReq = s.padReq ∧
    t.label = s.label ∧ t.buf = s.buf ∧
    ∀ (a : ConstructArgs) (words : List CommandWord) (t' t'' : State), hostMove (.construct a) t = some t' →
      hostMove (.supplyStream words) t' = some t'' → t''.cp = 0 ∧ t''.stream = some words

/-! ### The field level (40_lane_arithmetic.md R60 to R73) -/

/-- R60: explode_n creates n new wires and emits n booleanity constraints and one linear constraint, the sum of b_i·2^i being w;
they are satisfiable if and only if the wire's value is below 2^n, and then each bit wire is that bit of the value. -/
def Obligations.ExplodeHasOneWitness : Prop :=
  ∀ (p n : Nat) (w : Wire) (ar : Arena) (assign : Nat → Int), p.Prime → 2 ^ n ≤ p → w.Below ar.nextWire →
    let e := explode n w ar
    let new := e.1.map Constraint.booleanity ++ [Constraint.linear (pack e.1) w]
    e.1 = (List.range n).map (fun i => Wire.ofId (ar.nextWire + i)) ∧
    e.2.record = ar.record ++ new ∧ e.2.nextWire = ar.nextWire + n ∧
    (∀ assign', (pack e.1).eval assign' = ∑ i ∈ Finset.range n, assign' (ar.nextWire + i) * 2 ^ i) ∧
    ((∃ assign', AgreeBelow ar.nextWire assign assign' ∧ Satisfies p assign' new) ↔ w.value p assign < 2 ^ n) ∧
    ∀ assign', AgreeBelow ar.nextWire assign assign' → Satisfies p assign' new →
      ∀ (i : Nat) (b : Wire), e.1[i]? = some b →
        b.value p assign' = ((w.value p assign).toNat.testBit i).toNat

/-- R63: the XOR bit is the wire x + y - 2·π, and for two boolean wires the product constraint of π makes it the exclusive
or, by the four cases. -/
def Obligations.FieldXorOfBits : Prop :=
  ∀ (p : Nat) (x y : Wire) (n : Nat) (assign : Nat → Int) (bx bz : Bool), 2 < p →
    x.value p assign = bx.toNat → y.value p assign = bz.toNat →
    (Constraint.multiplication (Wire.ofId n) x y).Holds p assign →
    (xorBit x y n).eval assign = x.eval assign + y.eval assign - 2 * (Wire.ofId n).eval assign ∧
    (xorBit x y n).value p assign = (bx ^^ bz).toNat

/-- R64: trim_n explodes the sum to n bits and returns the pack of the low 64 with them as its bits; for a raw sum below 2^n,
n = 65 or 66, its constraints have a satisfying assignment, and in every one the lane returned meets the lane invariant with
the sum modulo 2^64 and the high bits pack to the carry, floor(s / 2^64). -/
def Obligations.TrimSoundness : Prop :=
  ∀ (p n : Nat) (w : Wire) (ar : Arena) (assign : Nat → Int), p.Prime → 2 ^ 66 < p → n = 65 ∨ n = 66 →
    w.Below ar.nextWire → w.value p assign < 2 ^ n →
    let s := (w.value p assign).toNat
    let bits := (explode n w ar).1
    let new := explodeConstraints bits w
    (trim n w ar).2 = (explode n w ar).2 ∧ (trim n w ar).2.record = ar.record ++ new ∧
    (trim n w ar).1 = { packed := pack (bits.take 64), bits := some (bits.take 64) } ∧
    (∃ assign', AgreeBelow ar.nextWire assign assign' ∧ Satisfies p assign' new) ∧
    ∀ assign', AgreeBelow ar.nextWire assign assign' → Satisfies p assign' new →
      (trim n w ar).1.Means p assign' (trimLow s) ∧
      (pack (bits.drop 64)).value p assign' = trimCarry s ∧
      (trimLow s).toNat + trimCarry s * 2 ^ 64 = s

/-- R65: the raw sums fit their trim widths, exactly: some lanes need every one of the 65 or 66 bits; and three lanes need
more than 65, where trim_65 has no satisfying assignment. -/
def Obligations.TrimWidthsAreMinimal : Prop :=
  (∀ a b : Word64, rawSum2 a b ≤ 2 ^ 65 - 2) ∧ (∀ a b c : Word64, rawSum3 a b c ≤ 2 ^ 66 - 3) ∧
  (∃ a b : Word64, 2 ^ 64 ≤ rawSum2 a b) ∧ (∃ a b c : Word64, 2 ^ 65 ≤ rawSum3 a b c) ∧
  (∀ (a b : LaneRep) (ar : Arena), addRep a b ar = trim 65 (a.packed.add b.packed) ar) ∧
  (∀ (a b c : LaneRep) (ar : Arena), addmRep a b c ar = trim 66 ((a.packed.add b.packed).add c.packed) ar) ∧
  ∀ (p n : Nat) (w : Wire) (ar : Arena) (assign : Nat → Int), p.Prime → 2 ^ 66 < p → n = 64 ∨ n = 65 →
    w.Below ar.nextWire → 2 ^ n ≤ w.value p assign →
    ¬ ∃ assign', AgreeBelow ar.nextWire assign assign' ∧ Satisfies p assign' (explodeConstraints (explode n w ar).1 w)

/-- R73: for operands that meet the lane invariant and P > 2^66 the constraints of XOR, ADD, ADDM and ROTR have exactly one
satisfying assignment of their new wires, and the result lane is the value-level result. -/
def Obligations.LaneCircuitsComputeTheirValues : Prop :=
  ∀ (p : Nat) (ar : Arena) (a b c : LaneRep) (x y z : Word64) (assign : Nat → Int) (reuse : Bool) (k : Nat),
    p.Prime → 2 ^ 66 < p → a.Below ar.nextWire → b.Below ar.nextWire → c.Below ar.nextWire →
    a.Means p assign x → b.Means p assign y → c.Means p assign z →
    UniquelyComputes p assign ar (xorRep reuse a b ar) (x ^^^ y) ∧
    UniquelyComputes p assign ar (addRep a b ar) (sum2 x y) ∧
    UniquelyComputes p assign ar (addmRep a b c ar) (sum3 x y z) ∧
    UniquelyComputes p assign ar (rotrRep reuse k a ar) (rotr x k)

/-- R9: every step keeps the two levels in agreement: each witness for the message gives every lane and every output byte the
value the block computed, a witness exists, and it is unique on the wires the block allocated. -/
def Obligations.StepKeepsCircuitCorrect : Prop :=
  ∀ s t : State, MemoriesCanonical s → CircuitCorrect s → step s = .next t → CircuitCorrect t

/-- The host's moves keep the two levels in agreement: reset, construction, the stream, the lane-write port in both its forms
(R99; its input wires made lanes by explode_64, log entry 10) and the evaluator's judgement. -/
def Obligations.HostMovesKeepCircuitCorrect : Prop :=
  ∀ (s t : State) (mv : HostMove), CircuitCorrect s → hostMove mv s = some t → CircuitCorrect t

/-- The two levels agree after reset, for every field prime above 2^66. -/
def Obligations.ResetCircuitCorrect : Prop :=
  ∀ p : Config.Params, p.fieldPrime.Prime → 2 ^ 66 < p.fieldPrime → CircuitCorrect { State.reset with params := p }

/-- The constraint record is append-only: no step, and no host move but reset, takes away or changes a constraint (R24); of the
host's other moves only the lane-write port's input wire adds any (log entry 10). -/
def Obligations.RecordIsAppendOnly : Prop :=
  (∀ s t : State, step s = .next t → ∃ new, t.field.arena.record = s.field.arena.record ++ new) ∧
  ∀ (s t : State) (mv : HostMove), hostMove mv s = some t → mv ≠ .reset →
    (∃ new, t.field.arena.record = s.field.arena.record ++ new) ∧
    ((∀ n value, mv ≠ .writeLane .inputWire n value) → t.field.arena.record = s.field.arena.record)

/-- R138: a completed G emits 256 multiplication constraints, constant lanes exploded like others (log entry 12), and at
least 262 booleanity constraints, and a completed COMPRESS at least 24576 multiplication constraints, in every state whose lanes hold 64 exploded bits or none. -/
def Obligations.ConstraintCost : Prop :=
  ∀ (s t : State), (∀ n bits, (s.field.rep n).bits = some bits → bits.length = 64) →
    (∀ a b c d x y, exec (.g a b c d x y) s = .next t → t.cp = s.cp + 1 →
      t.field.arena.multiplications = s.field.arena.multiplications + 256 ∧
      s.field.arena.booleanities + 262 ≤ t.field.arena.booleanities) ∧
    ∀ f, exec (.compress f) s = .next t → t.cp = s.cp + 1 →
      s.field.arena.multiplications + 24576 ≤ t.field.arena.multiplications

/-- R113: after a final run the evaluator's judgement of a witness sets FAULT to CONSTRAINT_VIOLATION, keeping a violated
constraint, exactly when the witness violates the record, and changes nothing otherwise. -/
def Obligations.WitnessJudgement : Prop :=
  ∀ (s : State) (witness : List Nat), s.final = true → ∃ t, hostMove (.judge witness) s = some t ∧
    (Satisfies s.params.fieldPrime (assignmentOf witness) s.field.arena.record → t = s) ∧
    (¬ Satisfies s.params.fieldPrime (assignmentOf witness) s.field.arena.record →
      ∃ c ∈ s.field.arena.record, ¬ c.Holds s.params.fieldPrime (assignmentOf witness) ∧
        t = { s with fault := 5, violation := some (.violated c) })

/-- The lane-write port writes a 64-bit value into any lane of v, h or m, as a constant that meets the lane invariant or as an
input wire that meets it wherever the constraints the write appends hold, or a 128-bit value into t (R99). The model's choices
(log entry 10): the port is open before construction too, an input wire is made a lane by explode_64, and a value of 2^64 or
more stands for the raw sum of 40_lane_arithmetic.md R72, reported as CONSTRAINT_VIOLATION and not written. -/
def Obligations.HostLanePort : Prop :=
  ∀ (s : State) (n : LaneName) (value : Nat), s.runEnded = false →
    (∀ (form : PortForm) (x : Word64), ∃ t, hostMove (.writeLane form n x.toNat) s = some t ∧ t.lane n = some x ∧
      (∀ n', n' ≠ n → t.lane n' = s.lane n' ∧ t.field.rep n' = s.field.rep n') ∧ t.cp = s.cp ∧ t.fault = 0 ∧
      (form = .constant → t.field.arena = s.field.arena ∧
        ∀ p assign, 2 ^ 66 < p → (t.field.rep n).Means p assign x) ∧
      (form = .inputWire → (t.field.rep n).packed = .ofId s.field.arena.nextWire ∧
        t.portInputs = s.portInputs ++ [(s.field.arena.nextWire, x)] ∧
        ∃ new, t.field.arena.record = s.field.arena.record ++ new ∧
          ∀ (p : Nat) assign, p.Prime → 2 ^ 66 < p → assign s.field.arena.nextWire % (p : Int) = x.toNat →
            Satisfies p assign new → (t.field.rep n).Means p assign x)) ∧
    (∀ c : Counter, hostMove (.writeCounter c.toNat) s = some { s with t := some c }) ∧
    (2 ^ 64 ≤ value → ∀ form : PortForm,
      ∃ t, hostMove (.writeLane form n value) s = some t ∧ t.fault = 5 ∧ (∀ n', t.lane n' = s.lane n'))

/-! ### Construction and the driver (43_host_driver.md) -/

/-- R112: a construction that fails the length check, and only such a one, sets FAULT to CONFIG_LENGTH, once: no buffer is
built, no command executes after it, and no further construction is made. -/
def Obligations.ConstructionLengthCheck : Prop :=
  ∀ (s : State) (a : ConstructArgs), s.built = false → s.runEnded = false →
    ∃ t, hostMove (.construct a) s = some t ∧
      (t.fault = 4 ↔ ¬ (((a.inputs.length : Int) - 1) * a.bitWidth ≤ 8 * a.len ∧ 8 * a.len ≤ a.inputs.length * a.bitWidth)) ∧
      (t.fault = 4 → t.built = false ∧ t.buf = s.buf ∧ t.cp = s.cp ∧ (∀ u, step t ≠ .next u) ∧
        ∀ a', hostMove (.construct a') t = none) ∧
      (t.fault = 4 ∨ t.fault = 0)

/-- A construction that passes the length check is refused exactly when BW_IN is not 8, the message needs more chunks than
LDCHUNK can name (R92), or the field is too small (R5): REFUSED is set and no command executes (R114). R5 says only that a
model must refuse to build; that this sets REFUSED at construction is the model's choice (log entry 6), and that the step
answers a refusal, by name, is log entry 2's. -/
def Obligations.ConstructionRefusal : Prop :=
  ∀ (s : State) (a : ConstructArgs), s.built = false → s.runEnded = false →
    lengthAdmitted a.inputs.length a.bitWidth a.len = true →
    ∃ t, hostMove (.construct a) s = some t ∧ t.fault = 0 ∧
      (t.refused = true ↔ a.bitWidth ≠ 8 ∨ 2 ^ 28 < chunkCount a.len ∨ s.params.fieldPrime ≤ 2 ^ 66) ∧
      (t.refused = true → t.built = false ∧ step t = .refused .configurationRefused ∧ t.final = false) ∧
      (t.refused = false → t.built = true)

/-- A construction that passes R91 and R92 builds Buf (R94): KEY at 0..15, zeros at 16..127, message byte i, the byte of input
wire i, at 128 + i, and BUFLEN is 128 + L; NCHUNK is its length in chunks, rounded up (R31). That the N_IN input
wires are new wires numbered on from those already allocated is the model's choice (log entry 16). -/
def Obligations.ConstructionBuildsBuf : Prop :=
  ∀ (s : State) (a : ConstructArgs), s.built = false → s.runEnded = false →
    lengthAdmitted a.inputs.length a.bitWidth a.len = true → configurationAdmitted s.params a.bitWidth a.len = true →
    ∃ t, hostMove (.construct a) s = some t ∧ t.built = true ∧
    t.bufLen = 128 + a.len ∧ a.len ≤ a.inputs.length ∧ chunkCount a.len = (t.bufLen + 127) / 128 ∧
    (∀ i : Fin 16, t.bufByte i.val = s.params.key[i]) ∧
    (∀ x, 16 ≤ x → x < 128 → t.bufByte x = 0) ∧
    (∀ i < a.len, ∃ b, a.inputs[i]? = some b ∧ t.bufByte (128 + i) = b) ∧
    t.inputBase = s.field.arena.nextWire ∧ t.field.arena.nextWire = t.inputBase + a.inputs.length ∧
    ∀ i < a.len, bufWire t (128 + i) = .ofId (t.inputBase + i)

/-- R100, R96: for every message LDCHUNK can name the chunks of, the driver's stream runs from the constructed state, one step
a command, to a final state whose Out is the BLAKE2b-256 digest of the message under KEY, with the driver in Done; before each
command the driver stands where it issues that command (R95). -/
def Obligations.DriverStreamYieldsDigest : Prop :=
  ∀ (p : Config.Params) (message : List Byte), 2 ^ 66 < p.fieldPrime → chunkCount message.length ≤ 2 ^ 28 →
    ∃ t, core.run (2 * chunkCount message.length + 2) (driverStart p message) = .next t ∧
      t.final = true ∧ t.fault = 0 ∧ t.outputWires = some (messageDigest p message) ∧ t.driver.state = .done ∧
      ∀ n i, (driverStream message.length)[n]? = some i →
        ∃ u, core.run n (driverStart p message) = .next u ∧ u.driver.issues message.length = i
end

