-- ==== Sys2Proof/Laws/Operands.lean ====
section
/-! SUPPORT. What the operand checks do: each goes on with the operand, or raises its one fault. -/

namespace Sys2Proof.Machine

/-- The lane a lane address selects, v[0] where it selects none. -/
def laneAt (a : LaneAddr) : LaneName := (laneOf a).getD (.v 0)

/-- R49: a lane address selects a lane exactly when it is legal. -/
theorem laneOf_of_legal {a : LaneAddr} : LaneAddr.legal a = true → laneOf a = some (laneAt a) := by
  revert a; decide

theorem laneOf_of_illegal {a : LaneAddr} : LaneAddr.legal a = false → laneOf a = none := by
  revert a; decide

theorem laneAt_of_some {a : LaneAddr} {n : LaneName} (h : laneOf a = some n) : laneAt a = n := by
  rw [laneAt, h]; rfl

theorem legal_of_some {a : LaneAddr} {n : LaneName} (h : laneOf a = some n) : LaneAddr.legal a = true := by
  by_contra ill
  rw [laneOf_of_illegal (by simpa using ill)] at h
  cases h

/-- No lane address selects a message lane. -/
theorem laneAt_ne_message (a : LaneAddr) (i : Fin 16) : laneAt a ≠ .m i := by
  revert a i; decide

variable {s : State}

theorem withLanes3_legal {rd rs1 rs2 : LaneAddr} {k : LaneName → LaneName → LaneName → Result}
    (h : LaneAddr.legal rd = true ∧ LaneAddr.legal rs1 = true ∧ LaneAddr.legal rs2 = true) :
    withLanes3 rd rs1 rs2 s k = k (laneAt rd) (laneAt rs1) (laneAt rs2) := by
  simp only [withLanes3, laneOf_of_legal h.1, laneOf_of_legal h.2.1, laneOf_of_legal h.2.2]

theorem withLanes3_illegal {rd rs1 rs2 : LaneAddr} {k : LaneName → LaneName → LaneName → Result}
    (h : ¬ (LaneAddr.legal rd = true ∧ LaneAddr.legal rs1 = true ∧ LaneAddr.legal rs2 = true)) :
    withLanes3 rd rs1 rs2 s k = raise .illegalCommand s := by
  unfold withLanes3
  split
  · rename_i e0 e1 e2
    exact absurd ⟨legal_of_some e0, legal_of_some e1, legal_of_some e2⟩ h
  · rfl

theorem withLanes2_legal {rd rs1 : LaneAddr} {k : LaneName → LaneName → Result}
    (h : LaneAddr.legal rd = true ∧ LaneAddr.legal rs1 = true) :
    withLanes2 rd rs1 s k = k (laneAt rd) (laneAt rs1) := by
  simp only [withLanes2, laneOf_of_legal h.1, laneOf_of_legal h.2]

theorem withLanes2_illegal {rd rs1 : LaneAddr} {k : LaneName → LaneName → Result}
    (h : ¬ (LaneAddr.legal rd = true ∧ LaneAddr.legal rs1 = true)) :
    withLanes2 rd rs1 s k = raise .illegalCommand s := by
  unfold withLanes2
  split
  · rename_i e0 e1
    exact absurd ⟨legal_of_some e0, legal_of_some e1⟩ h
  · rfl

theorem withValue_some {x : Option Word64} {w : Word64} (h : x = some w) (k : Word64 → Result) :
    withValue x s k = k w := by rw [h]; rfl

theorem withValue_none {x : Option Word64} (h : x = none) (k : Word64 → Result) :
    withValue x s k = raise .unwrittenRead s := by rw [h]; rfl

theorem whenWritten_of_true {operands : Bool} (h : operands = true) (next : State) :
    whenWritten operands s next = .next next := by rw [whenWritten, if_pos h]

theorem whenWritten_of_false {operands : Bool} (h : operands = false) (next : State) :
    whenWritten operands s next = raise .unwrittenRead s := by rw [whenWritten, h]; rfl

/-- Every lane of a file holds a value, as a proposition. -/
theorem allWritten_eq_true {n : Nat} {lanes : Vector (Option Word64) n} :
    allWritten lanes = true ↔ ∀ i : Fin n, (lanes[i]).isSome = true := by
  simp only [allWritten, decide_eq_true_eq]

theorem allWritten_eq_false {n : Nat} {lanes : Vector (Option Word64) n} :
    allWritten lanes = false ↔ ∃ i : Fin n, lanes[i] = none := by
  rw [← Bool.not_eq_true, allWritten_eq_true, not_forall]
  exact exists_congr fun i => by cases lanes[i] <;> simp

@[simp] theorem wordsOf_written {n : Nat} (words : Vector Word64 n) : wordsOf (written words) = words := by
  ext i hi
  simp [wordsOf, written]

@[simp] theorem getElem_written {n : Nat} (words : Vector Word64 n) (i : Nat) (hi : i < n) :
    (written words)[i] = some words[i] := by
  simp [written]

/-- A lane file in which every lane holds a value is the file of those values. -/
theorem written_wordsOf {n : Nat} {lanes : Vector (Option Word64) n} (h : allWritten lanes = true) :
    written (wordsOf lanes) = lanes := by
  ext1 i hi
  have hw := allWritten_eq_true.1 h ⟨i, hi⟩
  obtain ⟨w, e⟩ := Option.isSome_iff_exists.1 hw
  have e' : lanes[i] = some w := e
  simp [wordsOf, e']

@[simp] theorem allWritten_written {n : Nat} (words : Vector Word64 n) : allWritten (written words) = true :=
  allWritten_eq_true.2 fun i => by simp

end Sys2Proof.Machine
end

