-- ==== Sys2Proof/Laws/State.lean ====
section
/-! SUPPORT. One lemma per field per named update of the state. -/

namespace Sys2Proof.Machine

variable (s : State)

@[simp] theorem State.setV_params (x : Vector (Option Word64) 16) : (s.setV x).params = s.params := rfl
@[simp] theorem State.setV_v (x : Vector (Option Word64) 16) : (s.setV x).v = x := rfl
@[simp] theorem State.setV_h (x : Vector (Option Word64) 16) : (s.setV x).h = s.h := rfl
@[simp] theorem State.setV_m (x : Vector (Option Word64) 16) : (s.setV x).m = s.m := rfl
@[simp] theorem State.setV_t (x : Vector (Option Word64) 16) : (s.setV x).t = s.t := rfl
@[simp] theorem State.setV_cp (x : Vector (Option Word64) 16) : (s.setV x).cp = s.cp := rfl
@[simp] theorem State.setV_fault (x : Vector (Option Word64) 16) : (s.setV x).fault = s.fault := rfl
@[simp] theorem State.setV_violation (x : Vector (Option Word64) 16) : (s.setV x).violation = s.violation := rfl
@[simp] theorem State.setV_refused (x : Vector (Option Word64) 16) : (s.setV x).refused = s.refused := rfl
@[simp] theorem State.setV_out (x : Vector (Option Word64) 16) : (s.setV x).out = s.out := rfl
@[simp] theorem State.setV_nIn (x : Vector (Option Word64) 16) : (s.setV x).nIn = s.nIn := rfl
@[simp] theorem State.setV_bwIn (x : Vector (Option Word64) 16) : (s.setV x).bwIn = s.bwIn := rfl
@[simp] theorem State.setV_len (x : Vector (Option Word64) 16) : (s.setV x).len = s.len := rfl
@[simp] theorem State.setV_binaryOut (x : Vector (Option Word64) 16) : (s.setV x).binaryOut = s.binaryOut := rfl
@[simp] theorem State.setV_padReq (x : Vector (Option Word64) 16) : (s.setV x).padReq = s.padReq := rfl
@[simp] theorem State.setV_label (x : Vector (Option Word64) 16) : (s.setV x).label = s.label := rfl
@[simp] theorem State.setV_built (x : Vector (Option Word64) 16) : (s.setV x).built = s.built := rfl
@[simp] theorem State.setV_inputBase (x : Vector (Option Word64) 16) : (s.setV x).inputBase = s.inputBase := rfl
@[simp] theorem State.setV_portInputs (x : Vector (Option Word64) 16) : (s.setV x).portInputs = s.portInputs := rfl
@[simp] theorem State.setV_buf (x : Vector (Option Word64) 16) : (s.setV x).buf = s.buf := rfl
@[simp] theorem State.setV_stream (x : Vector (Option Word64) 16) : (s.setV x).stream = s.stream := rfl
@[simp] theorem State.setV_field (x : Vector (Option Word64) 16) : (s.setV x).field = s.field := rfl
@[simp] theorem State.setV_driver (x : Vector (Option Word64) 16) : (s.setV x).driver = s.driver := rfl

@[simp] theorem State.setH_params (x : Vector (Option Word64) 8) : (s.setH x).params = s.params := rfl
@[simp] theorem State.setH_v (x : Vector (Option Word64) 8) : (s.setH x).v = s.v := rfl
@[simp] theorem State.setH_h (x : Vector (Option Word64) 8) : (s.setH x).h = x := rfl
@[simp] theorem State.setH_m (x : Vector (Option Word64) 8) : (s.setH x).m = s.m := rfl
@[simp] theorem State.setH_t (x : Vector (Option Word64) 8) : (s.setH x).t = s.t := rfl
@[simp] theorem State.setH_cp (x : Vector (Option Word64) 8) : (s.setH x).cp = s.cp := rfl
@[simp] theorem State.setH_fault (x : Vector (Option Word64) 8) : (s.setH x).fault = s.fault := rfl
@[simp] theorem State.setH_violation (x : Vector (Option Word64) 8) : (s.setH x).violation = s.violation := rfl
@[simp] theorem State.setH_refused (x : Vector (Option Word64) 8) : (s.setH x).refused = s.refused := rfl
@[simp] theorem State.setH_out (x : Vector (Option Word64) 8) : (s.setH x).out = s.out := rfl
@[simp] theorem State.setH_nIn (x : Vector (Option Word64) 8) : (s.setH x).nIn = s.nIn := rfl
@[simp] theorem State.setH_bwIn (x : Vector (Option Word64) 8) : (s.setH x).bwIn = s.bwIn := rfl
@[simp] theorem State.setH_len (x : Vector (Option Word64) 8) : (s.setH x).len = s.len := rfl
@[simp] theorem State.setH_binaryOut (x : Vector (Option Word64) 8) : (s.setH x).binaryOut = s.binaryOut := rfl
@[simp] theorem State.setH_padReq (x : Vector (Option Word64) 8) : (s.setH x).padReq = s.padReq := rfl
@[simp] theorem State.setH_label (x : Vector (Option Word64) 8) : (s.setH x).label = s.label := rfl
@[simp] theorem State.setH_built (x : Vector (Option Word64) 8) : (s.setH x).built = s.built := rfl
@[simp] theorem State.setH_inputBase (x : Vector (Option Word64) 8) : (s.setH x).inputBase = s.inputBase := rfl
@[simp] theorem State.setH_portInputs (x : Vector (Option Word64) 8) : (s.setH x).portInputs = s.portInputs := rfl
@[simp] theorem State.setH_buf (x : Vector (Option Word64) 8) : (s.setH x).buf = s.buf := rfl
@[simp] theorem State.setH_stream (x : Vector (Option Word64) 8) : (s.setH x).stream = s.stream := rfl
@[simp] theorem State.setH_field (x : Vector (Option Word64) 8) : (s.setH x).field = s.field := rfl
@[simp] theorem State.setH_driver (x : Vector (Option Word64) 8) : (s.setH x).driver = s.driver := rfl

@[simp] theorem State.setM_params (x : Vector (Option Word64) 16) : (s.setM x).params = s.params := rfl
@[simp] theorem State.setM_v (x : Vector (Option Word64) 16) : (s.setM x).v = s.v := rfl
@[simp] theorem State.setM_h (x : Vector (Option Word64) 16) : (s.setM x).h = s.h := rfl
@[simp] theorem State.setM_m (x : Vector (Option Word64) 16) : (s.setM x).m = x := rfl
@[simp] theorem State.setM_t (x : Vector (Option Word64) 16) : (s.setM x).t = s.t := rfl
@[simp] theorem State.setM_cp (x : Vector (Option Word64) 16) : (s.setM x).cp = s.cp := rfl
@[simp] theorem State.setM_fault (x : Vector (Option Word64) 16) : (s.setM x).fault = s.fault := rfl
@[simp] theorem State.setM_violation (x : Vector (Option Word64) 16) : (s.setM x).violation = s.violation := rfl
@[simp] theorem State.setM_refused (x : Vector (Option Word64) 16) : (s.setM x).refused = s.refused := rfl
@[simp] theorem State.setM_out (x : Vector (Option Word64) 16) : (s.setM x).out = s.out := rfl
@[simp] theorem State.setM_nIn (x : Vector (Option Word64) 16) : (s.setM x).nIn = s.nIn := rfl
@[simp] theorem State.setM_bwIn (x : Vector (Option Word64) 16) : (s.setM x).bwIn = s.bwIn := rfl
@[simp] theorem State.setM_len (x : Vector (Option Word64) 16) : (s.setM x).len = s.len := rfl
@[simp] theorem State.setM_binaryOut (x : Vector (Option Word64) 16) : (s.setM x).binaryOut = s.binaryOut := rfl
@[simp] theorem State.setM_padReq (x : Vector (Option Word64) 16) : (s.setM x).padReq = s.padReq := rfl
@[simp] theorem State.setM_label (x : Vector (Option Word64) 16) : (s.setM x).label = s.label := rfl
@[simp] theorem State.setM_built (x : Vector (Option Word64) 16) : (s.setM x).built = s.built := rfl
@[simp] theorem State.setM_inputBase (x : Vector (Option Word64) 16) : (s.setM x).inputBase = s.inputBase := rfl
@[simp] theorem State.setM_portInputs (x : Vector (Option Word64) 16) : (s.setM x).portInputs = s.portInputs := rfl
@[simp] theorem State.setM_buf (x : Vector (Option Word64) 16) : (s.setM x).buf = s.buf := rfl
@[simp] theorem State.setM_stream (x : Vector (Option Word64) 16) : (s.setM x).stream = s.stream := rfl
@[simp] theorem State.setM_field (x : Vector (Option Word64) 16) : (s.setM x).field = s.field := rfl
@[simp] theorem State.setM_driver (x : Vector (Option Word64) 16) : (s.setM x).driver = s.driver := rfl

@[simp] theorem State.setT_params (x : Option Counter) : (s.setT x).params = s.params := rfl
@[simp] theorem State.setT_v (x : Option Counter) : (s.setT x).v = s.v := rfl
@[simp] theorem State.setT_h (x : Option Counter) : (s.setT x).h = s.h := rfl
@[simp] theorem State.setT_m (x : Option Counter) : (s.setT x).m = s.m := rfl
@[simp] theorem State.setT_t (x : Option Counter) : (s.setT x).t = x := rfl
@[simp] theorem State.setT_cp (x : Option Counter) : (s.setT x).cp = s.cp := rfl
@[simp] theorem State.setT_fault (x : Option Counter) : (s.setT x).fault = s.fault := rfl
@[simp] theorem State.setT_violation (x : Option Counter) : (s.setT x).violation = s.violation := rfl
@[simp] theorem State.setT_refused (x : Option Counter) : (s.setT x).refused = s.refused := rfl
@[simp] theorem State.setT_out (x : Option Counter) : (s.setT x).out = s.out := rfl
@[simp] theorem State.setT_nIn (x : Option Counter) : (s.setT x).nIn = s.nIn := rfl
@[simp] theorem State.setT_bwIn (x : Option Counter) : (s.setT x).bwIn = s.bwIn := rfl
@[simp] theorem State.setT_len (x : Option Counter) : (s.setT x).len = s.len := rfl
@[simp] theorem State.setT_binaryOut (x : Option Counter) : (s.setT x).binaryOut = s.binaryOut := rfl
@[simp] theorem State.setT_padReq (x : Option Counter) : (s.setT x).padReq = s.padReq := rfl
@[simp] theorem State.setT_label (x : Option Counter) : (s.setT x).label = s.label := rfl
@[simp] theorem State.setT_built (x : Option Counter) : (s.setT x).built = s.built := rfl
@[simp] theorem State.setT_inputBase (x : Option Counter) : (s.setT x).inputBase = s.inputBase := rfl
@[simp] theorem State.setT_portInputs (x : Option Counter) : (s.setT x).portInputs = s.portInputs := rfl
@[simp] theorem State.setT_buf (x : Option Counter) : (s.setT x).buf = s.buf := rfl
@[simp] theorem State.setT_stream (x : Option Counter) : (s.setT x).stream = s.stream := rfl
@[simp] theorem State.setT_field (x : Option Counter) : (s.setT x).field = s.field := rfl
@[simp] theorem State.setT_driver (x : Option Counter) : (s.setT x).driver = s.driver := rfl

@[simp] theorem State.setOut_params (x : Memory) : (s.setOut x).params = s.params := rfl
@[simp] theorem State.setOut_v (x : Memory) : (s.setOut x).v = s.v := rfl
@[simp] theorem State.setOut_h (x : Memory) : (s.setOut x).h = s.h := rfl
@[simp] theorem State.setOut_m (x : Memory) : (s.setOut x).m = s.m := rfl
@[simp] theorem State.setOut_t (x : Memory) : (s.setOut x).t = s.t := rfl
@[simp] theorem State.setOut_cp (x : Memory) : (s.setOut x).cp = s.cp := rfl
@[simp] theorem State.setOut_fault (x : Memory) : (s.setOut x).fault = s.fault := rfl
@[simp] theorem State.setOut_violation (x : Memory) : (s.setOut x).violation = s.violation := rfl
@[simp] theorem State.setOut_refused (x : Memory) : (s.setOut x).refused = s.refused := rfl
@[simp] theorem State.setOut_out (x : Memory) : (s.setOut x).out = x := rfl
@[simp] theorem State.setOut_nIn (x : Memory) : (s.setOut x).nIn = s.nIn := rfl
@[simp] theorem State.setOut_bwIn (x : Memory) : (s.setOut x).bwIn = s.bwIn := rfl
@[simp] theorem State.setOut_len (x : Memory) : (s.setOut x).len = s.len := rfl
@[simp] theorem State.setOut_binaryOut (x : Memory) : (s.setOut x).binaryOut = s.binaryOut := rfl
@[simp] theorem State.setOut_padReq (x : Memory) : (s.setOut x).padReq = s.padReq := rfl
@[simp] theorem State.setOut_label (x : Memory) : (s.setOut x).label = s.label := rfl
@[simp] theorem State.setOut_built (x : Memory) : (s.setOut x).built = s.built := rfl
@[simp] theorem State.setOut_inputBase (x : Memory) : (s.setOut x).inputBase = s.inputBase := rfl
@[simp] theorem State.setOut_portInputs (x : Memory) : (s.setOut x).portInputs = s.portInputs := rfl
@[simp] theorem State.setOut_buf (x : Memory) : (s.setOut x).buf = s.buf := rfl
@[simp] theorem State.setOut_stream (x : Memory) : (s.setOut x).stream = s.stream := rfl
@[simp] theorem State.setOut_field (x : Memory) : (s.setOut x).field = s.field := rfl
@[simp] theorem State.setOut_driver (x : Memory) : (s.setOut x).driver = s.driver := rfl

@[simp] theorem State.setField_params (x : FieldLevel) : (s.setField x).params = s.params := rfl
@[simp] theorem State.setField_v (x : FieldLevel) : (s.setField x).v = s.v := rfl
@[simp] theorem State.setField_h (x : FieldLevel) : (s.setField x).h = s.h := rfl
@[simp] theorem State.setField_m (x : FieldLevel) : (s.setField x).m = s.m := rfl
@[simp] theorem State.setField_t (x : FieldLevel) : (s.setField x).t = s.t := rfl
@[simp] theorem State.setField_cp (x : FieldLevel) : (s.setField x).cp = s.cp := rfl
@[simp] theorem State.setField_fault (x : FieldLevel) : (s.setField x).fault = s.fault := rfl
@[simp] theorem State.setField_violation (x : FieldLevel) : (s.setField x).violation = s.violation := rfl
@[simp] theorem State.setField_refused (x : FieldLevel) : (s.setField x).refused = s.refused := rfl
@[simp] theorem State.setField_out (x : FieldLevel) : (s.setField x).out = s.out := rfl
@[simp] theorem State.setField_nIn (x : FieldLevel) : (s.setField x).nIn = s.nIn := rfl
@[simp] theorem State.setField_bwIn (x : FieldLevel) : (s.setField x).bwIn = s.bwIn := rfl
@[simp] theorem State.setField_len (x : FieldLevel) : (s.setField x).len = s.len := rfl
@[simp] theorem State.setField_binaryOut (x : FieldLevel) : (s.setField x).binaryOut = s.binaryOut := rfl
@[simp] theorem State.setField_padReq (x : FieldLevel) : (s.setField x).padReq = s.padReq := rfl
@[simp] theorem State.setField_label (x : FieldLevel) : (s.setField x).label = s.label := rfl
@[simp] theorem State.setField_built (x : FieldLevel) : (s.setField x).built = s.built := rfl
@[simp] theorem State.setField_inputBase (x : FieldLevel) : (s.setField x).inputBase = s.inputBase := rfl
@[simp] theorem State.setField_portInputs (x : FieldLevel) : (s.setField x).portInputs = s.portInputs := rfl
@[simp] theorem State.setField_buf (x : FieldLevel) : (s.setField x).buf = s.buf := rfl
@[simp] theorem State.setField_stream (x : FieldLevel) : (s.setField x).stream = s.stream := rfl
@[simp] theorem State.setField_field (x : FieldLevel) : (s.setField x).field = x := rfl
@[simp] theorem State.setField_driver (x : FieldLevel) : (s.setField x).driver = s.driver := rfl

@[simp] theorem State.setDriver_params (x : Driver) : (s.setDriver x).params = s.params := rfl
@[simp] theorem State.setDriver_v (x : Driver) : (s.setDriver x).v = s.v := rfl
@[simp] theorem State.setDriver_h (x : Driver) : (s.setDriver x).h = s.h := rfl
@[simp] theorem State.setDriver_m (x : Driver) : (s.setDriver x).m = s.m := rfl
@[simp] theorem State.setDriver_t (x : Driver) : (s.setDriver x).t = s.t := rfl
@[simp] theorem State.setDriver_cp (x : Driver) : (s.setDriver x).cp = s.cp := rfl
@[simp] theorem State.setDriver_fault (x : Driver) : (s.setDriver x).fault = s.fault := rfl
@[simp] theorem State.setDriver_violation (x : Driver) : (s.setDriver x).violation = s.violation := rfl
@[simp] theorem State.setDriver_refused (x : Driver) : (s.setDriver x).refused = s.refused := rfl
@[simp] theorem State.setDriver_out (x : Driver) : (s.setDriver x).out = s.out := rfl
@[simp] theorem State.setDriver_nIn (x : Driver) : (s.setDriver x).nIn = s.nIn := rfl
@[simp] theorem State.setDriver_bwIn (x : Driver) : (s.setDriver x).bwIn = s.bwIn := rfl
@[simp] theorem State.setDriver_len (x : Driver) : (s.setDriver x).len = s.len := rfl
@[simp] theorem State.setDriver_binaryOut (x : Driver) : (s.setDriver x).binaryOut = s.binaryOut := rfl
@[simp] theorem State.setDriver_padReq (x : Driver) : (s.setDriver x).padReq = s.padReq := rfl
@[simp] theorem State.setDriver_label (x : Driver) : (s.setDriver x).label = s.label := rfl
@[simp] theorem State.setDriver_built (x : Driver) : (s.setDriver x).built = s.built := rfl
@[simp] theorem State.setDriver_inputBase (x : Driver) : (s.setDriver x).inputBase = s.inputBase := rfl
@[simp] theorem State.setDriver_portInputs (x : Driver) : (s.setDriver x).portInputs = s.portInputs := rfl
@[simp] theorem State.setDriver_buf (x : Driver) : (s.setDriver x).buf = s.buf := rfl
@[simp] theorem State.setDriver_stream (x : Driver) : (s.setDriver x).stream = s.stream := rfl
@[simp] theorem State.setDriver_field (x : Driver) : (s.setDriver x).field = s.field := rfl
@[simp] theorem State.setDriver_driver (x : Driver) : (s.setDriver x).driver = x := rfl

@[simp] theorem State.advance_params : (s.advance).params = s.params := rfl
@[simp] theorem State.advance_v : (s.advance).v = s.v := rfl
@[simp] theorem State.advance_h : (s.advance).h = s.h := rfl
@[simp] theorem State.advance_m : (s.advance).m = s.m := rfl
@[simp] theorem State.advance_t : (s.advance).t = s.t := rfl
@[simp] theorem State.advance_cp : (s.advance).cp = s.cp + 1 := rfl
@[simp] theorem State.advance_fault : (s.advance).fault = s.fault := rfl
@[simp] theorem State.advance_violation : (s.advance).violation = s.violation := rfl
@[simp] theorem State.advance_refused : (s.advance).refused = s.refused := rfl
@[simp] theorem State.advance_out : (s.advance).out = s.out := rfl
@[simp] theorem State.advance_nIn : (s.advance).nIn = s.nIn := rfl
@[simp] theorem State.advance_bwIn : (s.advance).bwIn = s.bwIn := rfl
@[simp] theorem State.advance_len : (s.advance).len = s.len := rfl
@[simp] theorem State.advance_binaryOut : (s.advance).binaryOut = s.binaryOut := rfl
@[simp] theorem State.advance_padReq : (s.advance).padReq = s.padReq := rfl
@[simp] theorem State.advance_label : (s.advance).label = s.label := rfl
@[simp] theorem State.advance_built : (s.advance).built = s.built := rfl
@[simp] theorem State.advance_inputBase : (s.advance).inputBase = s.inputBase := rfl
@[simp] theorem State.advance_portInputs : (s.advance).portInputs = s.portInputs := rfl
@[simp] theorem State.advance_buf : (s.advance).buf = s.buf := rfl
@[simp] theorem State.advance_stream : (s.advance).stream = s.stream := rfl
@[simp] theorem State.advance_field : (s.advance).field = s.field := rfl
@[simp] theorem State.advance_driver : (s.advance).driver = s.driver := rfl

@[simp] theorem State.enterFault_params (x : FaultCode) : (s.enterFault x).params = s.params := rfl
@[simp] theorem State.enterFault_v (x : FaultCode) : (s.enterFault x).v = s.v := rfl
@[simp] theorem State.enterFault_h (x : FaultCode) : (s.enterFault x).h = s.h := rfl
@[simp] theorem State.enterFault_m (x : FaultCode) : (s.enterFault x).m = s.m := rfl
@[simp] theorem State.enterFault_t (x : FaultCode) : (s.enterFault x).t = s.t := rfl
@[simp] theorem State.enterFault_cp (x : FaultCode) : (s.enterFault x).cp = s.cp := rfl
@[simp] theorem State.enterFault_fault (x : FaultCode) : (s.enterFault x).fault = if s.fault = 0 then x.code else s.fault := rfl
@[simp] theorem State.enterFault_violation (x : FaultCode) : (s.enterFault x).violation = s.violation := rfl
@[simp] theorem State.enterFault_refused (x : FaultCode) : (s.enterFault x).refused = s.refused := rfl
@[simp] theorem State.enterFault_out (x : FaultCode) : (s.enterFault x).out = s.out := rfl
@[simp] theorem State.enterFault_nIn (x : FaultCode) : (s.enterFault x).nIn = s.nIn := rfl
@[simp] theorem State.enterFault_bwIn (x : FaultCode) : (s.enterFault x).bwIn = s.bwIn := rfl
@[simp] theorem State.enterFault_len (x : FaultCode) : (s.enterFault x).len = s.len := rfl
@[simp] theorem State.enterFault_binaryOut (x : FaultCode) : (s.enterFault x).binaryOut = s.binaryOut := rfl
@[simp] theorem State.enterFault_padReq (x : FaultCode) : (s.enterFault x).padReq = s.padReq := rfl
@[simp] theorem State.enterFault_label (x : FaultCode) : (s.enterFault x).label = s.label := rfl
@[simp] theorem State.enterFault_built (x : FaultCode) : (s.enterFault x).built = s.built := rfl
@[simp] theorem State.enterFault_inputBase (x : FaultCode) : (s.enterFault x).inputBase = s.inputBase := rfl
@[simp] theorem State.enterFault_portInputs (x : FaultCode) : (s.enterFault x).portInputs = s.portInputs := rfl
@[simp] theorem State.enterFault_buf (x : FaultCode) : (s.enterFault x).buf = s.buf := rfl
@[simp] theorem State.enterFault_stream (x : FaultCode) : (s.enterFault x).stream = s.stream := rfl
@[simp] theorem State.enterFault_field (x : FaultCode) : (s.enterFault x).field = s.field := rfl
@[simp] theorem State.enterFault_driver (x : FaultCode) : (s.enterFault x).driver = s.driver := rfl

@[simp] theorem State.setLane_params (n : LaneName) (x : Option Word64) : (s.setLane n x).params = s.params := by cases n <;> rfl
@[simp] theorem State.setLane_t (n : LaneName) (x : Option Word64) : (s.setLane n x).t = s.t := by cases n <;> rfl
@[simp] theorem State.setLane_cp (n : LaneName) (x : Option Word64) : (s.setLane n x).cp = s.cp := by cases n <;> rfl
@[simp] theorem State.setLane_fault (n : LaneName) (x : Option Word64) : (s.setLane n x).fault = s.fault := by cases n <;> rfl
@[simp] theorem State.setLane_violation (n : LaneName) (x : Option Word64) : (s.setLane n x).violation = s.violation := by cases n <;> rfl
@[simp] theorem State.setLane_refused (n : LaneName) (x : Option Word64) : (s.setLane n x).refused = s.refused := by cases n <;> rfl
@[simp] theorem State.setLane_out (n : LaneName) (x : Option Word64) : (s.setLane n x).out = s.out := by cases n <;> rfl
@[simp] theorem State.setLane_nIn (n : LaneName) (x : Option Word64) : (s.setLane n x).nIn = s.nIn := by cases n <;> rfl
@[simp] theorem State.setLane_bwIn (n : LaneName) (x : Option Word64) : (s.setLane n x).bwIn = s.bwIn := by cases n <;> rfl
@[simp] theorem State.setLane_len (n : LaneName) (x : Option Word64) : (s.setLane n x).len = s.len := by cases n <;> rfl
@[simp] theorem State.setLane_binaryOut (n : LaneName) (x : Option Word64) : (s.setLane n x).binaryOut = s.binaryOut := by cases n <;> rfl
@[simp] theorem State.setLane_padReq (n : LaneName) (x : Option Word64) : (s.setLane n x).padReq = s.padReq := by cases n <;> rfl
@[simp] theorem State.setLane_label (n : LaneName) (x : Option Word64) : (s.setLane n x).label = s.label := by cases n <;> rfl
@[simp] theorem State.setLane_built (n : LaneName) (x : Option Word64) : (s.setLane n x).built = s.built := by cases n <;> rfl
@[simp] theorem State.setLane_inputBase (n : LaneName) (x : Option Word64) : (s.setLane n x).inputBase = s.inputBase := by cases n <;> rfl
@[simp] theorem State.setLane_portInputs (n : LaneName) (x : Option Word64) : (s.setLane n x).portInputs = s.portInputs := by cases n <;> rfl
@[simp] theorem State.setLane_buf (n : LaneName) (x : Option Word64) : (s.setLane n x).buf = s.buf := by cases n <;> rfl
@[simp] theorem State.setLane_stream (n : LaneName) (x : Option Word64) : (s.setLane n x).stream = s.stream := by cases n <;> rfl
@[simp] theorem State.setLane_field (n : LaneName) (x : Option Word64) : (s.setLane n x).field = s.field := by cases n <;> rfl
@[simp] theorem State.setLane_driver (n : LaneName) (x : Option Word64) : (s.setLane n x).driver = s.driver := by cases n <;> rfl

@[simp] theorem State.writeResult_params (n : LaneName) (x : Word64) (f : FieldLevel) : (s.writeResult n x f).params = s.params := by cases n <;> rfl
@[simp] theorem State.writeResult_t (n : LaneName) (x : Word64) (f : FieldLevel) : (s.writeResult n x f).t = s.t := by cases n <;> rfl
@[simp] theorem State.writeResult_cp (n : LaneName) (x : Word64) (f : FieldLevel) : (s.writeResult n x f).cp = s.cp + 1 := by cases n <;> rfl
@[simp] theorem State.writeResult_fault (n : LaneName) (x : Word64) (f : FieldLevel) : (s.writeResult n x f).fault = s.fault := by cases n <;> rfl
@[simp] theorem State.writeResult_violation (n : LaneName) (x : Word64) (f : FieldLevel) : (s.writeResult n x f).violation = s.violation := by cases n <;> rfl
@[simp] theorem State.writeResult_refused (n : LaneName) (x : Word64) (f : FieldLevel) : (s.writeResult n x f).refused = s.refused := by cases n <;> rfl
@[simp] theorem State.writeResult_out (n : LaneName) (x : Word64) (f : FieldLevel) : (s.writeResult n x f).out = s.out := by cases n <;> rfl
@[simp] theorem State.writeResult_nIn (n : LaneName) (x : Word64) (f : FieldLevel) : (s.writeResult n x f).nIn = s.nIn := by cases n <;> rfl
@[simp] theorem State.writeResult_bwIn (n : LaneName) (x : Word64) (f : FieldLevel) : (s.writeResult n x f).bwIn = s.bwIn := by cases n <;> rfl
@[simp] theorem State.writeResult_len (n : LaneName) (x : Word64) (f : FieldLevel) : (s.writeResult n x f).len = s.len := by cases n <;> rfl
@[simp] theorem State.writeResult_binaryOut (n : LaneName) (x : Word64) (f : FieldLevel) : (s.writeResult n x f).binaryOut = s.binaryOut := by cases n <;> rfl
@[simp] theorem State.writeResult_padReq (n : LaneName) (x : Word64) (f : FieldLevel) : (s.writeResult n x f).padReq = s.padReq := by cases n <;> rfl
@[simp] theorem State.writeResult_label (n : LaneName) (x : Word64) (f : FieldLevel) : (s.writeResult n x f).label = s.label := by cases n <;> rfl
@[simp] theorem State.writeResult_built (n : LaneName) (x : Word64) (f : FieldLevel) : (s.writeResult n x f).built = s.built := by cases n <;> rfl
@[simp] theorem State.writeResult_inputBase (n : LaneName) (x : Word64) (f : FieldLevel) : (s.writeResult n x f).inputBase = s.inputBase := by cases n <;> rfl
@[simp] theorem State.writeResult_portInputs (n : LaneName) (x : Word64) (f : FieldLevel) : (s.writeResult n x f).portInputs = s.portInputs := by cases n <;> rfl
@[simp] theorem State.writeResult_buf (n : LaneName) (x : Word64) (f : FieldLevel) : (s.writeResult n x f).buf = s.buf := by cases n <;> rfl
@[simp] theorem State.writeResult_stream (n : LaneName) (x : Word64) (f : FieldLevel) : (s.writeResult n x f).stream = s.stream := by cases n <;> rfl
@[simp] theorem State.writeResult_field (n : LaneName) (x : Word64) (f : FieldLevel) : (s.writeResult n x f).field = f := by cases n <;> rfl
@[simp] theorem State.writeResult_driver (n : LaneName) (x : Word64) (f : FieldLevel) : (s.writeResult n x f).driver = s.driver := by cases n <;> rfl

/-- A written lane reads back the value. -/
@[simp] theorem State.lane_setLane_self (n : LaneName) (x : Option Word64) : (s.setLane n x).lane n = x := by
  cases n <;> simp [State.lane, State.setLane]

/-- Writing a lane leaves every other lane alone. -/
theorem State.lane_setLane_ne {n n' : LaneName} (ne : n' ≠ n) (x : Option Word64) :
    (s.setLane n x).lane n' = s.lane n' := by
  cases n <;> cases n' <;> simp [State.lane, State.setLane, Vector.getElem_set] <;>
    (intro h; exact absurd (by rw [Fin.ext h]) ne)

@[simp] theorem State.lane_setField (n : LaneName) (f : FieldLevel) : (s.setField f).lane n = s.lane n := by
  cases n <;> rfl

@[simp] theorem State.lane_advance (n : LaneName) : s.advance.lane n = s.lane n := by cases n <;> rfl

@[simp] theorem State.lane_enterFault (n : LaneName) (c : FaultCode) : (s.enterFault c).lane n = s.lane n := by
  cases n <;> rfl

@[simp] theorem State.lane_writeResult_self (n : LaneName) (x : Word64) (f : FieldLevel) :
    (s.writeResult n x f).lane n = some x := by simp [State.writeResult]

theorem State.lane_writeResult_ne {n n' : LaneName} (ne : n' ≠ n) (x : Word64) (f : FieldLevel) :
    (s.writeResult n x f).lane n' = s.lane n' := by simp [State.writeResult, State.lane_setLane_ne, ne]

end Sys2Proof.Machine
end

