-- ==== Sys2Proof/Laws/Exec.lean ====
section
/-! SUPPORT. What a command can do, said once: it raises one of three faults, each on its own condition, or it
completes with the state `completed`. -/

namespace Sys2Proof.Machine

/-- The value an operand lane holds. -/
def State.word (s : State) (a : LaneAddr) : Word64 := (s.lane (laneAt a)).getD 0

/-- The state a command completes with, when it raises no fault. -/
def completed : Instr → State → State
  | .xor rd rs1 rs2, s =>
      s.writeResult (laneAt rd) (s.word rs1 ^^^ s.word rs2)
        (fieldXor s.params.reuseExploded (laneAt rd) (laneAt rs1) (laneAt rs2) s.field)
  | .add rd rs1 rs2, s =>
      s.writeResult (laneAt rd) (sum2 (s.word rs1) (s.word rs2)) (fieldAdd (laneAt rd) (laneAt rs1) (laneAt rs2) s.field)
  | .addm rd rs1 rs2 mx, s =>
      s.writeResult (laneAt rd) (sum3 (s.word rs1) (s.word rs2) ((s.m[mx]).getD 0))
        (fieldAddm (laneAt rd) (laneAt rs1) (laneAt rs2) mx s.field)
  | .rotr rd rs1 amt, s =>
      s.writeResult (laneAt rd) (rotr (s.word rs1) amt.val)
        (fieldRotr s.params.reuseExploded (laneAt rd) (laneAt rs1) amt.val s.field)
  | .g a b c d x y, s =>
      ((s.setV (mixLanes a b c d x y s)).setField (fieldMix s.params.reuseExploded a b c d x y s.field)).advance
  | .round r, s =>
      ((s.setV (written (roundWords s.params r.val (wordsOf s.m) (wordsOf s.v)))).setField
        (fieldRound s.params.reuseExploded (sigmaRow s.params r.val) s.field)).advance
  | .init, s =>
      ((s.setH (written (initWords s.params))).setField (fieldInit (initWords s.params) s.field)).advance
  | .ldchunk k, s =>
      (((s.setM (written (chunkWords s k.val))).setT (some (chunkCounter s k.val))).setField
        (fieldLoad (chunkWires s k.val) s.field)).advance
  | .seed f, s =>
      ((s.setV (written (seedWords s.params (wordsOf s.h) (s.t.getD 0) f))).setField
        (fieldSeed (seedUpper s.params (s.t.getD 0) f) s.field)).advance
  | .feed, s =>
      (((s.setH (written (feedWords (wordsOf s.h) (wordsOf s.v)))).setV (unwrittenLanes 16)).setField
        (fieldFeed s.params.reuseExploded s.field)).advance
  | .compress f, s =>
      (((s.setH (written (compressWords s.params (wordsOf s.h) (wordsOf s.m) (s.t.getD 0) f))).setV
        (unwrittenLanes 16)).setField
        (fieldCompress s.params (seedUpper s.params (s.t.getD 0) f) (scheduleRows s.params) s.field)).advance
  | .stdig, s =>
      ((s.setOut (writeBytes outUnlisted s.out 0 (digestBytes (wordsOf s.h)))).setField
        (fieldStore s.params.reuseExploded s.field)).advance

/-- What the execution of a command can be. -/
inductive ExecCases (i : Instr) (s : State) : Prop where
  | illegal (ill : i.wellFormed = false) (eq : exec i s = raise .illegalCommand s)
  | unwritten (wf : i.wellFormed = true) (un : OperandUnwritten s i) (eq : exec i s = raise .unwrittenRead s)
  | range (wf : i.wellFormed = true) (wr : ¬ OperandUnwritten s i) (out : ChunkOutOfRange s i)
      (eq : exec i s = raise .chunkRange s)
  | completes (wf : i.wellFormed = true) (wr : ¬ OperandUnwritten s i) (inside : ¬ ChunkOutOfRange s i)
      (eq : exec i s = .next (completed i s))

/-- Whether the lane of a legal lane address holds a value. -/
theorem addrUnwritten_iff {a : LaneAddr} (h : LaneAddr.legal a = true) (s : State) :
    AddrUnwritten s a ↔ s.lane (laneAt a) = none := by
  simp [AddrUnwritten, laneOf_of_legal h]

theorem word_of_some {s : State} {a : LaneAddr} {x : Word64} (h : s.lane (laneAt a) = some x) : s.word a = x := by
  rw [State.word, h]; rfl

theorem binaryLane_cases (i : Instr) (rd rs1 rs2 : LaneAddr) (op : Word64 → Word64 → Word64)
    (circuit : LaneName → LaneName → LaneName → FieldLevel → FieldLevel) (s : State)
    (hi : i.wellFormed = true ↔ LaneAddr.legal rd = true ∧ LaneAddr.legal rs1 = true ∧ LaneAddr.legal rs2 = true)
    (hu : OperandUnwritten s i ↔ AddrUnwritten s rs1 ∨ AddrUnwritten s rs2) (hc : ¬ ChunkOutOfRange s i)
    (he : exec i s = binaryLane rd rs1 rs2 op circuit s)
    (hd : completed i s = s.writeResult (laneAt rd) (op (s.word rs1) (s.word rs2))
      (circuit (laneAt rd) (laneAt rs1) (laneAt rs2) s.field)) : ExecCases i s := by
  by_cases wf : i.wellFormed = true
  · have l := hi.1 wf
    rw [addrUnwritten_iff l.2.1, addrUnwritten_iff l.2.2] at hu
    rw [binaryLane, withLanes3_legal l] at he
    cases e1 : s.lane (laneAt rs1) with
    | none => exact .unwritten wf (hu.2 (.inl e1)) (he.trans (withValue_none e1 _))
    | some x =>
      rw [withValue_some e1] at he
      cases e2 : s.lane (laneAt rs2) with
      | none => exact .unwritten wf (hu.2 (.inr e2)) (he.trans (withValue_none e2 _))
      | some y =>
        refine .completes wf (by rw [hu, e1, e2]; simp) hc ?_
        rw [he, withValue_some e2, hd, word_of_some e1, word_of_some e2]
  · refine .illegal (by simpa using wf) ?_
    rw [he, binaryLane, withLanes3_illegal fun l => wf (hi.2 l)]

theorem whenWritten_cases (i : Instr) (s : State) (operands : Bool) (wf : i.wellFormed = true)
    (hu : OperandUnwritten s i ↔ operands = false) (hc : ¬ ChunkOutOfRange s i)
    (he : exec i s = whenWritten operands s (completed i s)) : ExecCases i s := by
  cases h : operands
  · exact .unwritten wf (hu.2 h) (he.trans (whenWritten_of_false h _))
  · exact .completes wf (by rw [hu, h]; simp) hc (he.trans (whenWritten_of_true h _))

/-- The inversion of `exec` (60_exceptions.md R111): every command in every state. -/
theorem exec_cases (i : Instr) (s : State) : ExecCases i s := by
  cases i with
  | xor rd rs1 rs2 =>
    refine binaryLane_cases _ rd rs1 rs2 _ _ s ?_ Iff.rfl (fun h => h) rfl rfl
    simp [Instr.wellFormed, Instr.illegal?, and_assoc]
  | add rd rs1 rs2 =>
    refine binaryLane_cases _ rd rs1 rs2 _ _ s ?_ Iff.rfl (fun h => h) rfl rfl
    simp [Instr.wellFormed, Instr.illegal?, and_assoc]
  | addm rd rs1 rs2 mx =>
    have hi : (Instr.addm rd rs1 rs2 mx).wellFormed = true ↔
        LaneAddr.legal rd = true ∧ LaneAddr.legal rs1 = true ∧ LaneAddr.legal rs2 = true := by
      simp [Instr.wellFormed, Instr.illegal?, and_assoc]
    have he : exec (.addm rd rs1 rs2 mx) s = execAddm rd rs1 rs2 mx s := rfl
    by_cases wf : (Instr.addm rd rs1 rs2 mx).wellFormed = true
    · have l := hi.1 wf
      rw [execAddm, withLanes3_legal l] at he
      have hu : OperandUnwritten s (.addm rd rs1 rs2 mx) ↔
          s.lane (laneAt rs1) = none ∨ s.lane (laneAt rs2) = none ∨ s.m[mx] = none := by
        simp only [OperandUnwritten, addrUnwritten_iff l.2.1, addrUnwritten_iff l.2.2]
      cases e1 : s.lane (laneAt rs1) with
      | none => exact .unwritten wf (hu.2 (.inl e1)) (he.trans (withValue_none e1 _))
      | some x =>
        rw [withValue_some e1] at he
        cases e2 : s.lane (laneAt rs2) with
        | none => exact .unwritten wf (hu.2 (.inr (.inl e2))) (he.trans (withValue_none e2 _))
        | some y =>
          rw [withValue_some e2] at he
          cases e3 : s.m[mx] with
          | none => exact .unwritten wf (hu.2 (.inr (.inr e3))) (he.trans (withValue_none e3 _))
          | some z =>
            refine .completes wf (by rw [hu, e1, e2, e3]; simp) (fun h => h) ?_
            rw [he, withValue_some e3, completed, word_of_some e1, word_of_some e2, e3]
            rfl
    · refine .illegal (by simpa using wf) ?_
      rw [he, execAddm, withLanes3_illegal fun l => wf (hi.2 l)]
  | rotr rd rs1 amt =>
    have hi : (Instr.rotr rd rs1 amt).wellFormed = true ↔ LaneAddr.legal rd = true ∧ LaneAddr.legal rs1 = true := by
      simp [Instr.wellFormed, Instr.illegal?]
    have he : exec (.rotr rd rs1 amt) s = execRotr rd rs1 amt s := rfl
    by_cases wf : (Instr.rotr rd rs1 amt).wellFormed = true
    · have l := hi.1 wf
      rw [execRotr, withLanes2_legal l] at he
      have hu : OperandUnwritten s (.rotr rd rs1 amt) ↔ s.lane (laneAt rs1) = none := addrUnwritten_iff l.2 s
      cases e1 : s.lane (laneAt rs1) with
      | none => exact .unwritten wf (hu.2 e1) (he.trans (withValue_none e1 _))
      | some x =>
        refine .completes wf (by rw [hu, e1]; simp) (fun h => h) ?_
        rw [he, withValue_some e1, completed, word_of_some e1]
    · refine .illegal (by simpa using wf) ?_
      rw [he, execRotr, withLanes2_illegal fun l => wf (hi.2 l)]
  | g a b c d x y =>
    refine whenWritten_cases _ s (mixReadable a b c d x y s) rfl ?_ (fun h => h) rfl
    simp only [OperandUnwritten, mixReadable]
    cases s.v[a] <;> cases s.v[b] <;> cases s.v[c] <;> cases s.v[d] <;> cases s.m[x] <;> cases s.m[y] <;> simp
  | round r =>
    by_cases lt : r.val < 12
    · refine whenWritten_cases _ s (allWritten s.v && allWritten s.m) (by simp [Instr.wellFormed, Instr.illegal?, lt])
        ?_ (fun h => h) (if_pos lt)
      rw [Bool.and_eq_false_iff, allWritten_eq_false, allWritten_eq_false]
      rfl
    · exact .illegal (by simp [Instr.wellFormed, Instr.illegal?, lt]) (if_neg lt)
  | init => exact .completes rfl (fun h => h) (fun h => h) rfl
  | ldchunk k =>
    by_cases le : s.bufLen ≤ Config.blockBytes * k.val
    · exact .range rfl (fun h => h) le (if_pos le)
    · exact .completes rfl (fun h => h) le (if_neg le)
  | seed f =>
    refine whenWritten_cases _ s (allWritten s.h && s.t.isSome) rfl ?_ (fun h => h) rfl
    rw [Bool.and_eq_false_iff, allWritten_eq_false]
    cases e : s.t <;> simp [OperandUnwritten, e]
  | feed =>
    refine whenWritten_cases _ s (allWritten s.h && allWritten s.v) rfl ?_ (fun h => h) rfl
    rw [Bool.and_eq_false_iff, allWritten_eq_false, allWritten_eq_false]
    rfl
  | compress f =>
    refine whenWritten_cases _ s (allWritten s.h && allWritten s.m && s.t.isSome) rfl ?_ (fun h => h) rfl
    rw [Bool.and_eq_false_iff, Bool.and_eq_false_iff, allWritten_eq_false, allWritten_eq_false, or_assoc]
    cases e : s.t <;> simp [OperandUnwritten, e]
  | stdig =>
    refine whenWritten_cases _ s (digestReadable s) rfl ?_ (fun h => h) rfl
    simp only [OperandUnwritten, digestReadable]
    cases s.h[0] <;> cases s.h[1] <;> cases s.h[2] <;> cases s.h[3] <;> simp

/-- A completed command leaves FAULT alone. -/
theorem completed_fault (i : Instr) (s : State) : (completed i s).fault = s.fault := by
  cases i <;> simp [completed]

/-- A completed command adds one to cp (10_state.md R16). -/
theorem completed_cp (i : Instr) (s : State) : (completed i s).cp = s.cp + 1 := by
  cases i <;> simp [completed]

/-- No command writes what stands on the host side. -/
theorem completed_sameHostSide (i : Instr) (s : State) : SameHostSide s (completed i s) := by
  cases i <;> exact ⟨by simp [completed], by simp [completed], by simp [completed], by simp [completed],
    by simp [completed], by simp [completed], by simp [completed], by simp [completed], by simp [completed],
    by simp [completed], by simp [completed], by simp [completed], by simp [completed], by simp [completed]⟩

/-- A command either completes or enters a fault, and then writes nothing else. -/
theorem exec_next {i : Instr} {s t : State} (h : exec i s = .next t) :
    t = completed i s ∨ ∃ c, t = s.enterFault c := by
  cases exec_cases i s with
  | illegal _ eq => exact .inr ⟨_, (Host.Outcome.next.inj (h.symm.trans eq))⟩
  | unwritten _ _ eq => exact .inr ⟨_, (Host.Outcome.next.inj (h.symm.trans eq))⟩
  | range _ _ _ eq => exact .inr ⟨_, (Host.Outcome.next.inj (h.symm.trans eq))⟩
  | completes _ _ _ eq => exact .inl (Host.Outcome.next.inj (h.symm.trans eq))

/-- No command stops the machine: every outcome of `exec` is a next state. -/
theorem exec_answers_next (i : Instr) (s : State) : ∃ t, exec i s = .next t := by
  cases exec_cases i s with
  | illegal _ eq => exact ⟨_, eq⟩
  | unwritten _ _ eq => exact ⟨_, eq⟩
  | range _ _ _ eq => exact ⟨_, eq⟩
  | completes _ _ _ eq => exact ⟨_, eq⟩

end Sys2Proof.Machine
end

