-- ==== Sys2Proof/Laws/Field.lean ====
section
/-! SUPPORT. The laws of the field level: what wires evaluate to, which wires an operation allocates, and what it appends
to the record. -/

namespace Sys2Proof.Machine

variable {assign assign' : Nat → Int} {n k p : Nat}

@[simp] theorem Wire.eval_ofConst (c : Int) : (Wire.ofConst c).eval assign = c := rfl
@[simp] theorem Wire.eval_ofId (i : Nat) : (Wire.ofId i).eval assign = assign i := rfl
@[simp] theorem Wire.eval_add (x y : Wire) : (x.add y).eval assign = x.eval assign + y.eval assign := rfl
@[simp] theorem Wire.eval_scale (c : Int) (x : Wire) : (x.scale c).eval assign = c * x.eval assign := rfl
@[simp] theorem eval_pack_nil : (pack []).eval assign = 0 := rfl
@[simp] theorem eval_pack_cons (b : Wire) (bs : List Wire) :
    (pack (b :: bs)).eval assign = b.eval assign + 2 * (pack bs).eval assign := rfl
@[simp] theorem eval_xorBit (x y : Wire) (i : Nat) :
    (xorBit x y i).eval assign = x.eval assign + y.eval assign + -2 * assign i := rfl

/-- The test of a constraint decides whether it holds. -/
theorem Constraint.holds_iff (c : Constraint) : c.holds p assign = true ↔ c.Holds p assign := by
  cases c <;> simp [Constraint.holds]

theorem satisfies_append {cs ds : List Constraint} :
    Satisfies p assign (cs ++ ds) ↔ Satisfies p assign cs ∧ Satisfies p assign ds := by
  simp only [Satisfies, List.mem_append, or_imp, forall_and]

/-! ### Wires below a bound -/

theorem Wire.Below.mono {x : Wire} (h : x.Below n) (le : n ≤ k) : x.Below k := by
  induction x with
  | ofConst c => trivial
  | ofId i => exact Nat.lt_of_lt_of_le h le
  | add x y ihx ihy => exact ⟨ihx h.1, ihy h.2⟩
  | scale c x ih => exact ih h

theorem Constraint.Below.mono {c : Constraint} (h : c.Below n) (le : n ≤ k) : c.Below k := by
  cases c with
  | booleanity b => exact Wire.Below.mono h le
  | multiplication z x y => exact ⟨h.1.mono le, h.2.1.mono le, h.2.2.mono le⟩
  | linear sum w => exact ⟨h.1.mono le, h.2.mono le⟩

theorem LaneRep.Below.mono {r : LaneRep} (h : r.Below n) (le : n ≤ k) : r.Below k :=
  ⟨h.1.mono le, fun bits e b hb => (h.2 bits e b hb).mono le⟩

/-- A wire below a bound does not see assignments above it. -/
theorem Wire.Below.eval_congr {x : Wire} (h : x.Below n) (agree : AgreeBelow n assign assign') :
    x.eval assign' = x.eval assign := by
  induction x with
  | ofConst c => rfl
  | ofId i => exact agree i h
  | add x y ihx ihy => rw [eval_add, eval_add, ihx h.1, ihy h.2]
  | scale c x ih => rw [eval_scale, eval_scale, ih h]

theorem Constraint.Below.holds_congr {c : Constraint} (h : c.Below n) (agree : AgreeBelow n assign assign') :
    c.Holds p assign' ↔ c.Holds p assign := by
  cases c with
  | booleanity b => simp only [Constraint.Holds, Wire.Below.eval_congr h agree]
  | multiplication z x y =>
    simp only [Constraint.Holds, h.1.eval_congr agree, h.2.1.eval_congr agree, h.2.2.eval_congr agree]
  | linear sum w => simp only [Constraint.Holds, h.1.eval_congr agree, h.2.eval_congr agree]

/-! ### What the operations allocate and emit -/

@[simp] theorem length_newWires : ∀ n start : Nat, (newWires n start).length = n
  | 0, _ => rfl
  | n + 1, start => by simp [newWires, length_newWires n]

theorem getElem?_newWires : ∀ (n start i : Nat), i < n → (newWires n start)[i]? = some (Wire.ofId (start + i))
  | n + 1, start, 0, _ => rfl
  | n + 1, start, i + 1, lt => by
      rw [newWires, List.getElem?_cons_succ, getElem?_newWires n (start + 1) i (by omega)]
      congr 2
      omega

@[simp] theorem explode_bits (n : Nat) (w : Wire) (ar : Arena) : (explode n w ar).1 = newWires n ar.nextWire := rfl
@[simp] theorem explode_nextWire (n : Nat) (w : Wire) (ar : Arena) :
    (explode n w ar).2.nextWire = ar.nextWire + n := rfl
@[simp] theorem explode_record (n : Nat) (w : Wire) (ar : Arena) :
    (explode n w ar).2.record = ar.record ++ explodeConstraints (newWires n ar.nextWire) w := rfl
@[simp] theorem trim_arena (n : Nat) (s : Wire) (ar : Arena) : (trim n s ar).2 = (explode n s ar).2 := rfl
@[simp] theorem trim_packed (n : Nat) (s : Wire) (ar : Arena) :
    (trim n s ar).1.packed = pack ((newWires n ar.nextWire).take 64) := rfl
@[simp] theorem trim_bits (n : Nat) (s : Wire) (ar : Arena) :
    (trim n s ar).1.bits = some ((newWires n ar.nextWire).take 64) := rfl

/-- The bits of an operand are the ones it holds, with nothing emitted, or those of `explode_64`. -/
theorem bitsOf_cases (reuse : Bool) (r : LaneRep) (ar : Arena) :
    (∃ bits, reuse = true ∧ r.bits = some bits ∧ bitsOf reuse r ar = (bits, ar)) ∨
    bitsOf reuse r ar = explode 64 r.packed ar := by
  cases reuse with
  | false => exact .inr rfl
  | true =>
    cases e : r.bits with
    | none => exact .inr (by simp [bitsOf, e])
    | some bits => exact .inl ⟨bits, rfl, rfl, by simp [bitsOf, e]⟩

theorem length_xorBits : ∀ (xs ys : List Wire) (i : Nat), (xorBits xs ys i).length = min xs.length ys.length
  | [], ys, i => by simp [xorBits]
  | x :: xs, [], i => by simp [xorBits]
  | x :: xs, y :: ys, i => by simp [xorBits, length_xorBits xs ys]

theorem length_xorConstraints : ∀ (xs ys : List Wire) (i : Nat),
    (xorConstraints xs ys i).length = min xs.length ys.length
  | [], ys, i => by simp [xorConstraints]
  | x :: xs, [], i => by simp [xorConstraints]
  | x :: xs, y :: ys, i => by simp [xorConstraints, length_xorConstraints xs ys]

/-- A lane's representation after a put, the lane put and any other. -/
theorem FieldLevel.rep_put_self (f : FieldLevel) (n : LaneName) (r : LaneRep × Arena) : (f.put n r).rep n = r.1 := by
  cases n <;> simp [FieldLevel.put, FieldLevel.rep]

theorem FieldLevel.rep_put_ne (f : FieldLevel) {n n' : LaneName} (r : LaneRep × Arena) (ne : n' ≠ n) :
    (f.put n r).rep n' = f.rep n' := by
  cases n <;> cases n' <;> simp_all [FieldLevel.put, FieldLevel.rep, Fin.ext_iff, eq_comm]

@[simp] theorem FieldLevel.put_arena (f : FieldLevel) (n : LaneName) (r : LaneRep × Arena) : (f.put n r).arena = r.2 := by
  cases n <;> rfl

@[simp] theorem FieldLevel.put_out (f : FieldLevel) (n : LaneName) (r : LaneRep × Arena) : (f.put n r).out = f.out := by
  cases n <;> rfl

/-- An input wire of the port: one wire and its 64 bits allocated, the constraints of `explode_64` appended. -/
theorem fieldInput_arena (d : LaneName) (f : FieldLevel) :
    (fieldInput d f).arena.nextWire = f.arena.nextWire + 65 ∧
    (fieldInput d f).arena.record = f.arena.record ++
      explodeConstraints (newWires 64 (f.arena.nextWire + 1)) (.ofId f.arena.nextWire) := by
  simp [fieldInput, Arena.emit]

theorem fieldInput_rep (d : LaneName) (f : FieldLevel) : (fieldInput d f).rep d =
    { packed := .ofId f.arena.nextWire, bits := some (newWires 64 (f.arena.nextWire + 1)) } :=
  FieldLevel.rep_put_self ..

end Sys2Proof.Machine
end

