-- ==== Sys2Proof/Laws/HostPort.lean ====
section
/-! SUPPORT. What each host move does, said once. -/

namespace Sys2Proof.Machine

/-- Construction fails the length check, is refused, or builds the gadget (43_host_driver.md R91, R92, R94). -/
theorem construct_cases (s : State) (a : ConstructArgs) :
    (lengthAdmitted a.inputs.length a.bitWidth a.len = false ∧
      s.construct a = (s.configure a).enterFault .configLength) ∨
    (lengthAdmitted a.inputs.length a.bitWidth a.len = true ∧
      configurationAdmitted s.params a.bitWidth a.len = false ∧
      s.construct a = { s.configure a with refused := true }) ∨
    (lengthAdmitted a.inputs.length a.bitWidth a.len = true ∧
      configurationAdmitted s.params a.bitWidth a.len = true ∧
      s.construct a = (s.configure a).buildGadget a.inputs) := by
  unfold State.construct
  cases lengthAdmitted a.inputs.length a.bitWidth a.len with
  | false => exact .inl ⟨rfl, rfl⟩
  | true =>
    cases configurationAdmitted s.params a.bitWidth a.len with
    | false => exact .inr (.inl ⟨rfl, rfl, rfl⟩)
    | true => exact .inr (.inr ⟨rfl, rfl, rfl⟩)

/-- The lane-write port writes a 64-bit value as a constant or as an input wire, and reports any other value
(R99, 40_lane_arithmetic.md R72). -/
theorem portWrite_cases (s : State) (form : PortForm) (n : LaneName) (value : Nat) :
    (value < 2 ^ 64 ∧ form = .constant ∧ s.portWrite form n value = s.portConstant n (BitVec.ofNat 64 value)) ∨
    (value < 2 ^ 64 ∧ form = .inputWire ∧ s.portWrite form n value = s.portInput n (BitVec.ofNat 64 value)) ∨
    (2 ^ 64 ≤ value ∧ s.portWrite form n value =
      { s.enterFault .constraintViolation with violation := some (.rawLane value) }) := by
  by_cases lt : value < 2 ^ 64
  · cases form with
    | constant => exact .inl ⟨lt, rfl, if_pos lt⟩
    | inputWire => exact .inr (.inl ⟨lt, rfl, if_pos lt⟩)
  · exact .inr (.inr ⟨Nat.le_of_not_lt lt, if_neg lt⟩)

/-- A judgement leaves the state, or reports a violated constraint of the record (60_exceptions.md R113). -/
theorem judge_cases (s : State) (witness : List Nat) :
    s.judge witness = s ∨
    ∃ c ∈ s.field.arena.record, c.holds s.params.fieldPrime (assignmentOf witness) = false ∧
      s.judge witness = { s.enterFault .constraintViolation with violation := some (.violated c) } := by
  unfold State.judge
  cases e : firstViolated s.params.fieldPrime witness s.field.arena.record with
  | none => exact .inl rfl
  | some c =>
    refine .inr ⟨c, List.mem_of_find?_eq_some e, ?_, rfl⟩
    simpa [firstViolated] using List.find?_some e

/-- A move the host makes, with the condition under which R90 and R99 allow it and what it leaves. -/
theorem hostMove_some {mv : HostMove} {s t : State} (h : hostMove mv s = some t) :
    (mv = .reset ∧ t = s.hostReset) ∨
    (∃ a, mv = .construct a ∧ s.built = false ∧ s.runEnded = false ∧ t = s.construct a) ∨
    (∃ words, mv = .supplyStream words ∧ s.built = true ∧ s.stream = none ∧ s.runEnded = false ∧
      t = { s with stream := some words }) ∨
    (∃ form n value, mv = .writeLane form n value ∧ s.runEnded = false ∧ t = s.portWrite form n value) ∨
    (∃ value, mv = .writeCounter value ∧ s.runEnded = false ∧ value < 2 ^ 128 ∧
      t = s.setT (some (BitVec.ofNat 128 value))) ∨
    (mv = .read ∧ s.runEnded = true ∧ t = s) ∨
    ∃ witness, mv = .judge witness ∧ s.final = true ∧ t = s.judge witness := by
  cases mv with
  | supplyStream words =>
    simp only [hostMove, Option.ite_none_right_eq_some, Option.some.injEq, Bool.and_eq_true, Bool.not_eq_true',
      Option.isNone_iff_eq_none] at h
    exact .inr (.inr (.inl ⟨words, rfl, h.1.1.1, h.1.1.2, h.1.2, h.2.symm⟩))
  | read =>
    simp only [hostMove, Option.ite_none_right_eq_some, Option.some.injEq] at h
    exact .inr (.inr (.inr (.inr (.inr (.inl ⟨rfl, h.1, h.2.symm⟩)))))
  | _ => simp [hostMove] at h; simp_all

end Sys2Proof.Machine
end

