-- ==== Sys2Proof/Laws/Memory.lean ====
section
/-! SUPPORT. The laws of the byte spaces: reading after a write, and that every write keeps the canonical form. -/

namespace Sys2Proof.Machine

variable {u : Option Byte}

theorem readByte_cons (c : Host.Cell) (cs : Memory) (a : Nat) :
    readByte u (c :: cs) a = if c.1 = a then some c.2 else readByte u cs a := rfl

/-- Every entry of a written space is an old entry or the written one. -/
theorem mem_writeByte {c : Host.Cell} : ∀ {mem : Memory} {a : Nat} {b : Byte},
    c ∈ writeByte u mem a b → c ∈ mem ∨ (c = (a, b) ∧ some b ≠ u)
  | [], a, b => by
      unfold writeByte; split <;> simp_all
  | d :: ds, a, b => by
      unfold writeByte
      split
      · split <;> intro h <;> simp_all
        rcases h with rfl | h <;> simp_all
      · split
        · split <;> intro h <;> simp_all
          rcases h with rfl | h <;> simp_all
        · intro h
          rcases List.mem_cons.1 h with rfl | h
          · simp
          · rcases mem_writeByte h with h | h <;> simp_all

/-- A write keeps the canonical form. -/
theorem writeByte_wf : ∀ {mem : Memory} (a : Nat) (b : Byte), Memory.wf u mem → Memory.wf u (writeByte u mem a b)
  | [], a, b, _ => by unfold writeByte; split <;> simp_all [Memory.wf]
  | d :: ds, a, b, h => by
      obtain ⟨hp, hu⟩ := h
      obtain ⟨hd, hds⟩ := List.pairwise_cons.1 hp
      have ih := writeByte_wf (mem := ds) a b ⟨hds, fun c hc => hu c (List.mem_cons_of_mem _ hc)⟩
      unfold writeByte
      split
      · rename_i lt
        split
        · exact ⟨hp, hu⟩
        · refine ⟨List.pairwise_cons.2 ⟨fun c hc => ?_, hp⟩, fun c hc => ?_⟩
          · rcases List.mem_cons.1 hc with rfl | hc
            · exact lt
            · exact lt_trans lt (hd c hc)
          · rcases List.mem_cons.1 hc with rfl | hc
            · assumption
            · exact hu c hc
      · split
        · rename_i eq
          split
          · exact ⟨hds, fun c hc => hu c (List.mem_cons_of_mem _ hc)⟩
          · refine ⟨List.pairwise_cons.2 ⟨fun c hc => eq ▸ hd c hc, hds⟩, fun c hc => ?_⟩
            rcases List.mem_cons.1 hc with rfl | hc
            · assumption
            · exact hu c (List.mem_cons_of_mem _ hc)
        · refine ⟨List.pairwise_cons.2 ⟨fun c hc => ?_, ih.1⟩, fun c hc => ?_⟩
          · rcases mem_writeByte hc with hc | ⟨rfl, _⟩
            · exact hd c hc
            · simp only; omega
          · rcases List.mem_cons.1 hc with rfl | hc
            · exact hu c (List.mem_cons_self ..)
            · exact ih.2 c hc

/-- In a space whose addresses all lie above `a`, address `a` is not listed. -/
theorem readByte_of_lt : ∀ {mem : Memory} {a : Nat}, (∀ c ∈ mem, a < c.1) → readByte u mem a = u
  | [], _, _ => rfl
  | c :: cs, a, h => by
      have hc := h c (List.mem_cons_self ..)
      unfold readByte
      rw [if_neg (by omega)]
      exact readByte_of_lt fun c hc => h c (List.mem_cons_of_mem _ hc)

/-- Reading the byte just written gives it. -/
theorem readByte_writeByte_self : ∀ {mem : Memory} (a : Nat) (b : Byte), Memory.wf u mem →
    readByte u (writeByte u mem a b) a = some b
  | [], a, b, _ => by unfold writeByte; split <;> simp_all [readByte]
  | d :: ds, a, b, h => by
      obtain ⟨hp, hu⟩ := h
      obtain ⟨hd, hds⟩ := List.pairwise_cons.1 hp
      unfold writeByte
      split
      · rename_i lt
        split
        · rename_i eq
          rw [eq]
          refine readByte_of_lt fun c hc => ?_
          rcases List.mem_cons.1 hc with rfl | hc
          · exact lt
          · exact lt_trans lt (hd c hc)
        · simp [readByte]
      · split
        · rename_i eq
          subst eq
          split
          · rename_i eq
            rw [eq]
            exact readByte_of_lt hd
          · simp [readByte]
        · rename_i ne
          unfold readByte
          rw [if_neg (by omega)]
          exact readByte_writeByte_self a b ⟨hds, fun c hc => hu c (List.mem_cons_of_mem _ hc)⟩

/-- A write leaves every other address alone. -/
theorem readByte_writeByte_ne {a a' : Nat} (ne : a' ≠ a) (b : Byte) : ∀ {mem : Memory}, Memory.wf u mem →
    readByte u (writeByte u mem a b) a' = readByte u mem a'
  | [], _ => by unfold writeByte; split <;> simp [readByte, ne.symm]
  | d :: ds, h => by
      obtain ⟨hp, hu⟩ := h
      obtain ⟨hd, hds⟩ := List.pairwise_cons.1 hp
      unfold writeByte
      split
      · split
        · rfl
        · rw [readByte_cons, if_neg (by simp only; omega)]
      · split
        · rename_i eq
          subst eq
          split <;> simp [readByte_cons, ne.symm]
        · rw [readByte_cons, readByte_cons,
            readByte_writeByte_ne ne b ⟨hds, fun c hc => hu c (List.mem_cons_of_mem _ hc)⟩]

/-- Writing several bytes keeps the canonical form. -/
theorem writeBytes_wf : ∀ (bs : List Byte) {mem : Memory} (a : Nat), Memory.wf u mem →
    Memory.wf u (writeBytes u mem a bs)
  | [], _, _, h => h
  | _ :: bs, _, a, h => writeBytes_wf bs (a + 1) (writeByte_wf a _ h)

/-- Reading after writing several bytes: a written address gives its byte, any other what it held. -/
theorem readByte_writeBytes : ∀ (bs : List Byte) {mem : Memory} (a a' : Nat), Memory.wf u mem →
    readByte u (writeBytes u mem a bs) a' =
      if h : a ≤ a' ∧ a' - a < bs.length then some (bs[a' - a]'h.2) else readByte u mem a'
  | [], mem, a, a', h => by simp [writeBytes]
  | b :: bs, mem, a, a', h => by
      rw [writeBytes, readByte_writeBytes bs (a + 1) a' (writeByte_wf a b h)]
      by_cases e : a' = a
      · subst e
        simp [readByte_writeByte_self a' b h]
      · rw [readByte_writeByte_ne e b h]
        by_cases l : a + 1 ≤ a' ∧ a' - (a + 1) < bs.length
        · rw [dif_pos l, dif_pos (by simp only [List.length_cons]; omega)]
          congr 1
          rw [List.getElem_cons, dif_neg (by omega)]
          congr 1
        · rw [dif_neg l, dif_neg (by simp only [List.length_cons]; omega)]

/-- The entries of a written space are old ones or lie at the written addresses. -/
theorem mem_writeBytes {c : Host.Cell} : ∀ (bs : List Byte) {mem : Memory} {a : Nat},
    c ∈ writeBytes u mem a bs → c ∈ mem ∨ (a ≤ c.1 ∧ c.1 < a + bs.length)
  | [], _, _, h => .inl h
  | b :: bs, mem, a, h => by
      rcases mem_writeBytes bs h with h | h
      · rcases mem_writeByte h with h | ⟨rfl, _⟩
        · exact .inl h
        · exact .inr (by simp)
      · exact .inr (by simp only [List.length_cons]; omega)

end Sys2Proof.Machine
end

