-- ==== Sys2Proof/Laws/PerInstr.lean ====
section
/-! SUPPORT. What is proved of every command, as syntax, one lemma a constructor. -/

namespace Sys2Proof.Laws.OpcodeField

/-- The word of the command carries the opcode of its row in R50's table. -/
def Statement (i : Instr) : Prop :=
  ∃ row ∈ opcodeRows, row.mnemonic = i.mnemonic ∧ opcodeOf (encode i) = row.matchBits.toNat / 2 ^ 28

theorem xor (rd rs1 rs2 : LaneAddr) : Statement (.xor rd rs1 rs2) := by
  refine ⟨⟨"XOR", 0x10000000, 0xF0001FFF⟩, by decide, rfl, ?_⟩
  show _ = 1
  simp only [opcodeOf, fieldAt, encode, formatR, BitVec.toNat_ofNat]
  omega

theorem add (rd rs1 rs2 : LaneAddr) : Statement (.add rd rs1 rs2) := by
  refine ⟨⟨"ADD", 0x20000000, 0xF0001FFF⟩, by decide, rfl, ?_⟩
  show _ = 2
  simp only [opcodeOf, fieldAt, encode, formatR, BitVec.toNat_ofNat]
  omega

theorem addm (rd rs1 rs2 : LaneAddr) (mx : MsgIndex) : Statement (.addm rd rs1 rs2 mx) := by
  refine ⟨⟨"ADDM", 0x30000000, 0xF00001FF⟩, by decide, rfl, ?_⟩
  show _ = 3
  simp only [opcodeOf, fieldAt, encode, formatR, BitVec.toNat_ofNat]
  omega

theorem rotr (rd rs1 : LaneAddr) (amt : RotAmount) : Statement (.rotr rd rs1 amt) := by
  refine ⟨⟨"ROTR", 0x40000000, 0xF003FE07⟩, by decide, rfl, ?_⟩
  show _ = 4
  simp only [opcodeOf, fieldAt, encode, formatR, BitVec.toNat_ofNat]
  omega

theorem g (a b c d : WorkIndex) (x y : MsgIndex) : Statement (.g a b c d x y) := by
  refine ⟨⟨"G", 0x50000000, 0xF000000F⟩, by decide, rfl, ?_⟩
  show _ = 5
  simp only [opcodeOf, fieldAt, encode, BitVec.toNat_ofNat]
  omega

theorem round (r : RoundNumber) : Statement (.round r) := by
  refine ⟨⟨"ROUND", 0x60000000, 0xFFFFFFF0⟩, by decide, rfl, ?_⟩
  show _ = 6
  simp only [opcodeOf, fieldAt, encode, formatS, BitVec.toNat_ofNat]
  omega

theorem init : Statement .init := by
  refine ⟨⟨"INIT", 0x70000000, 0xFFFFFFFF⟩, by decide, rfl, ?_⟩
  decide

theorem ldchunk (k : ChunkIndex) : Statement (.ldchunk k) := by
  refine ⟨⟨"LDCHUNK", 0x80000000, 0xF0000000⟩, by decide, rfl, ?_⟩
  show _ = 8
  simp only [opcodeOf, fieldAt, encode, formatS, BitVec.toNat_ofNat]
  omega

theorem seed (f : Bool) : Statement (.seed f) := by
  refine ⟨⟨"SEED", 0x90000000, 0xFFFFFFFE⟩, by decide, rfl, ?_⟩
  revert f; decide

theorem feed : Statement .feed := by
  refine ⟨⟨"FEED", 0xA0000000, 0xFFFFFFFF⟩, by decide, rfl, ?_⟩
  decide

theorem compress (f : Bool) : Statement (.compress f) := by
  refine ⟨⟨"COMPRESS", 0xB0000000, 0xFFFFFFFE⟩, by decide, rfl, ?_⟩
  revert f; decide

theorem stdig : Statement .stdig := by
  refine ⟨⟨"STDIG", 0xC0000000, 0xFFFFFFFF⟩, by decide, rfl, ?_⟩
  decide

end Sys2Proof.Laws.OpcodeField
end

