-- ==== Sys2Proof/Laws/Step.lean ====
section
/-! SUPPORT. What a step can do, said once. -/

namespace Sys2Proof.Machine

/-- The fetch of a word that is there (10_state.md R16). -/
theorem step_eq_runWord {s : State} {words : List CommandWord} {w : CommandWord} (hr : s.refused = false)
    (hf : s.fault = 0) (hb : s.built = true) (hs : s.stream = some words) (hw : words[s.cp]? = some w) :
    step s = runWord s w := by
  simp [step, fetchThen, hr, hf, hb, hs, hw]

/-- A step that answers a next state has fetched a word. -/
theorem fetched_of_step {s t : State} (h : step s = .next t) :
    s.refused = false ∧ s.fault = 0 ∧ s.built = true ∧
      ∃ words w, s.stream = some words ∧ words[s.cp]? = some w ∧ runWord s w = .next t := by
  unfold step fetchThen at h
  split at h
  · cases h
  · split at h
    · cases h
    · split at h
      · cases h
      · split at h
        · cases h
        · split at h
          · cases h
          · rename_i hr hf hb _ words hs _ w hw
            exact ⟨by simpa using hr, by simpa using hf, by simpa using hb, words, w, hs, hw, h⟩

/-- What running a word can be: an illegal word, a command that raises, a command that completes. -/
theorem runWord_cases (s : State) (w : CommandWord) (hf : s.fault = 0) :
    (∃ why, decode w = .illegal why ∧ runWord s w = .next (s.enterFault .illegalCommand)) ∨
    ∃ i, decode w = .command i ∧
      ((i.wellFormed = false ∧ runWord s w = .next (s.enterFault .illegalCommand)) ∨
        (i.wellFormed = true ∧ OperandUnwritten s i ∧ runWord s w = .next (s.enterFault .unwrittenRead)) ∨
        (i.wellFormed = true ∧ ¬ OperandUnwritten s i ∧ ChunkOutOfRange s i ∧
          runWord s w = .next (s.enterFault .chunkRange)) ∨
        (i.wellFormed = true ∧ ¬ OperandUnwritten s i ∧ ¬ ChunkOutOfRange s i ∧
          runWord s w = .next ((completed i s).setDriver (s.driver.follow s.len i)))) := by
  cases hd : decode w with
  | illegal why => exact .inl ⟨why, rfl, by simp [runWord, hd, raise]⟩
  | command i =>
    refine .inr ⟨i, rfl, ?_⟩
    have raised : ∀ c : FaultCode, exec i s = raise c s → runWord s w = .next (s.enterFault c) := by
      intro c eq
      have : (s.enterFault c).fault ≠ 0 := by cases c <;> simp [hf, FaultCode.code]
      simp only [runWord, hd, eq, raise, followDriver, if_neg this]
    cases exec_cases i s with
    | illegal ill eq => exact .inl ⟨ill, raised _ eq⟩
    | unwritten wf un eq => exact .inr (.inl ⟨wf, un, raised _ eq⟩)
    | range wf wr out eq => exact .inr (.inr (.inl ⟨wf, wr, out, raised _ eq⟩))
    | completes wf wr inside eq =>
      refine .inr (.inr (.inr ⟨wf, wr, inside, ?_⟩))
      have hs := completed_sameHostSide i s
      have hdr : (completed i s).driver = s.driver := by cases i <;> simp [completed]
      simp only [runWord, hd, eq, followDriver, completed_fault, hf, if_true, hdr, hs.len]

/-- What a step that answers a next state has done: entered one of three faults, or completed a command, the driver
following. -/
theorem step_next {s t : State} (h : step s = .next t) :
    (∃ c, (c = FaultCode.illegalCommand ∨ c = .unwrittenRead ∨ c = .chunkRange) ∧ t = s.enterFault c) ∨
    ∃ i, i.wellFormed = true ∧ ¬ OperandUnwritten s i ∧ ¬ ChunkOutOfRange s i ∧
      t = (completed i s).setDriver (s.driver.follow s.len i) := by
  obtain ⟨_, hf, _, words, w, _, _, hrun⟩ := fetched_of_step h
  have inj : ∀ {u : State}, runWord s w = .next u → t = u := fun e => Host.Outcome.next.inj (hrun.symm.trans e)
  rcases runWord_cases s w hf with ⟨_, _, e⟩ | ⟨i, _, ⟨_, e⟩ | ⟨_, _, e⟩ | ⟨_, _, _, e⟩ | ⟨wf, wr, ins, e⟩⟩
  · exact .inl ⟨_, .inl rfl, inj e⟩
  · exact .inl ⟨_, .inl rfl, inj e⟩
  · exact .inl ⟨_, .inr (.inl rfl), inj e⟩
  · exact .inl ⟨_, .inr (.inr rfl), inj e⟩
  · exact .inr ⟨i, wf, wr, ins, inj e⟩

end Sys2Proof.Machine
end

