-- ==== Sys2Proof/Tests/Slice0.lean ====
section
/-! SUPPORT. Tests: expected results are the vectors of 95_test_vectors.md and the examples of the rules, cited by
their ids; then, for every obligation with hypotheses, a concrete state and operands that meet them. -/

namespace Sys2Proof.Machine.Tests

/-! ### Helpers -/

/-- The state a result goes on to, reset where it stops. -/
def after : Result → State
  | .next t => t
  | .fault _ => State.reset
  | .refused _ => State.reset

/-- Whether a result goes on. -/
def goesOn : Result → Bool
  | .next _ => true
  | .fault _ => false
  | .refused _ => false

theorem next_after {r : Result} (h : goesOn r = true) : r = .next (after r) := by
  cases r with
  | next t => rfl
  | fault f => cases h
  | refused f => cases h

/-- v[0], v[1] and m[0] written by the host port's values, nothing else. -/
def lanes (x y z : Word64) : State :=
  ((State.reset.setLane (.v 0) (some x)).setLane (.v 1) (some y)).setLane (.m 0) (some z)

/-- v and m written. -/
def block (v m : Vector Word64 16) : State := { State.reset with v := written v, m := written m }

/-- The gadget constructed for a message (BW_IN = 8, LEN its length), before a stream is supplied. -/
def built (message : List Byte) : State :=
  State.reset.construct
    { inputs := message, bitWidth := 8, len := message.length, binaryOut := false, padReq := false, label := none }

/-- The empty message's gadget with a stream. -/
def ready (words : List CommandWord) : State := { built [] with stream := some words }

/-- The chaining state V-C1 and the key block V-C2, t = 128. -/
def hC1 : Vector Word64 8 := #v[
  0x6a09e667f2bdd928, 0xbb67ae8584caa73b, 0x3c6ef372fe94f82b, 0xa54ff53a5f1d36f1,
  0x510e527fade682d1, 0x9b05688c2b3e6c1f, 0x1f83d9abfb41bd6b, 0x5be0cd19137e2179]
def mC2 : Vector Word64 16 := #v[0x6d6f43687361635a, 0x6769536865747570, 0, 0, 0, 0, 0, 0, 0, 0, 0, 0, 0, 0, 0, 0]

/-- V-C3: the seeded working vector of the empty message. -/
def vC3 : Vector Word64 16 := #v[
  0x6a09e667f2bdd928, 0xbb67ae8584caa73b, 0x3c6ef372fe94f82b, 0xa54ff53a5f1d36f1,
  0x510e527fade682d1, 0x9b05688c2b3e6c1f, 0x1f83d9abfb41bd6b, 0x5be0cd19137e2179,
  0x6a09e667f3bcc908, 0xbb67ae8584caa73b, 0x3c6ef372fe94f82b, 0xa54ff53a5f1d36f1,
  0x510e527fade68251, 0x9b05688c2b3e6c1f, 0xe07c265404be4294, 0x5be0cd19137e2179]

/-- V-RD3: the working vector after the twelve rounds. -/
def vRD3 : Vector Word64 16 := #v[
  0x637fa3c4bb920530, 0xc310b67c676557dd, 0x6d5c32ff085bb72c, 0xc6911511f8f2e250,
  0x33a186259df35c02, 0xd3bdd1c01a47b200, 0xae4a548f32c4a0c8, 0x4d6cac5652ef9c80,
  0xab88132ebbb65dfd, 0xaa573f96bd55c90a, 0xb1ff000a471f777d, 0xb3837b52989107d8,
  0x13c571816c92ba39, 0x40c596d57c43a119, 0x0c9581d015d5a3ef, 0xf4501bccc007ec7a]

/-- V-C4: the chaining state after the empty message's compression. -/
def hC4 : Vector Word64 8 := #v[
  0xa2fe568df29981e5, 0xd220276f5efa39ec, 0xe0cdc187b1d0387a, 0xd05d9b793f7ed379,
  0x716aa5db5c8764ea, 0x087d2f994d3a7f06, 0xbd5c0cf4dc50be4c, 0xe2dc7a8381965183]

/-- The state after INIT and LDCHUNK #0 on the empty message, with the fields the later commands read. -/
def loaded : State := { State.reset with h := written hC1, m := written mC2, t := some 128 }

/-- All bits one. -/
def ones : Word64 := 0xffffffffffffffff

/-- The 56-byte message of program P3. -/
def message56 : List Byte := [
  0x61, 0x62, 0x63, 0x64, 0x62, 0x63, 0x64, 0x65, 0x63, 0x64, 0x65, 0x66, 0x64, 0x65, 0x66, 0x67,
  0x65, 0x66, 0x67, 0x68, 0x66, 0x67, 0x68, 0x69, 0x67, 0x68, 0x69, 0x6a, 0x68, 0x69, 0x6a, 0x6b] ++ [
  0x69, 0x6a, 0x6b, 0x6c, 0x6a, 0x6b, 0x6c, 0x6d, 0x6b, 0x6c, 0x6d, 0x6e, 0x6c, 0x6d, 0x6e, 0x6f,
  0x6d, 0x6e, 0x6f, 0x70, 0x6e, 0x6f, 0x70, 0x71]

/-! ### WellFormed: an ill-formed command for each check (R51 (c), (d)) -/

theorem test_refuses_xor_rd : (Instr.xor 24 0 0).illegal? = some .laneAddress := by decide
theorem test_refuses_xor_rs1 : (Instr.xor 23 24 0).illegal? = some .laneAddress := by decide
theorem test_refuses_xor_rs2 : (Instr.xor 0 0 31).illegal? = some .laneAddress := by decide
theorem test_refuses_add : (Instr.add 0 24 0).illegal? = some .laneAddress := by decide
theorem test_refuses_addm : (Instr.addm 0 0 24 15).illegal? = some .laneAddress := by decide
theorem test_refuses_rotr_rd : (Instr.rotr 24 0 0).illegal? = some .laneAddress := by decide
theorem test_refuses_rotr_rs1 : (Instr.rotr 0 24 0).illegal? = some .laneAddress := by decide
theorem test_refuses_round : (Instr.round 12).illegal? = some .roundNumber := by decide
theorem test_admits_boundary : (Instr.xor 23 15 16).wellFormed = true ∧ (Instr.round 11).wellFormed = true := by decide

/-! ### Decode: words written out field by field from R46 to R50 -/

/-- V-E1: op 0001, rd 01100, rs1 01100, rs2 00000, mx, amt, z3 zero. -/
theorem test_decode_xor : decode 0b0001_01100_01100_00000_0000_000000_000 = .command (.xor 12 12 0) := by decide
/-- V-E2. -/
theorem test_decode_add : decode 0b0010_01000_01000_01100_0000_000000_000 = .command (.add 8 8 12) := by decide
/-- V-E3. -/
theorem test_decode_addm : decode 0b0011_00000_00000_00100_0001_000000_000 = .command (.addm 0 0 4 1) := by decide
/-- V-E4. -/
theorem test_decode_rotr : decode 0b0100_00100_00100_00000_0000_111111_000 = .command (.rotr 4 4 63) := by decide
/-- V-E5. -/
theorem test_decode_g : decode 0b0101_0000_0100_1000_1100_0000_0001_0000 = .command (.g 0 4 8 12 0 1) := by decide
/-- V-E6. -/
theorem test_decode_round : decode 0b0110_000000000000000000000000_1011 = .command (.round 11) := by decide
theorem test_decode_init : decode 0b0111_0000000000000000000000000000 = .command .init := by decide
/-- V-E7; the largest chunk index. -/
theorem test_decode_ldchunk : decode 0b1000_0000000000000000000000000001 = .command (.ldchunk 1) ∧
    decode 0x8FFFFFFF = .command (.ldchunk 268435455) := by decide
theorem test_decode_seed : decode 0b1001_000000000000000000000000000_1 = .command (.seed true) := by decide
theorem test_decode_feed : decode 0b1010_0000000000000000000000000000 = .command .feed := by decide
/-- V-E8. -/
theorem test_decode_compress : decode 0b1011_000000000000000000000000000_1 = .command (.compress true) := by decide
theorem test_decode_stdig : decode 0b1100_0000000000000000000000000000 = .command .stdig := by decide
/-- Format R's fields each at a value of their own. -/
theorem test_decode_fields : decode 0b0011_10111_00001_10000_1010_000000_000 = .command (.addm 23 1 16 10) ∧
    decode 0b0101_0001_0010_0011_0100_0101_0110_0000 = .command (.g 1 2 3 4 5 6) := by decide
/-- V-E9 to V-E17 and words of the remaining clauses of R51. -/
theorem test_decode_illegal :
    decode 0x00000000 = .illegal .unusedOpcode ∧ decode 0x6000000C = .illegal .roundNumber ∧
    decode 0x1C422000 = .illegal .laneAddress ∧ decode 0x10000001 = .illegal .nonzeroField ∧
    decode 0x40002000 = .illegal .nonzeroField ∧ decode 0x70000001 = .illegal .nonzeroField ∧
    decode 0x90000002 = .illegal .nonzeroField ∧ decode 0xD0000000 = .illegal .unusedOpcode ∧
    decode 0x50000001 = .illegal .nonzeroField := by decide
theorem test_decode_illegal_more :
    decode 0x20000008 = .illegal .nonzeroField ∧ decode 0x30000008 = .illegal .nonzeroField ∧
    decode 0x60000010 = .illegal .nonzeroField ∧ decode 0xA0000001 = .illegal .nonzeroField ∧
    decode 0xB0000002 = .illegal .nonzeroField ∧ decode 0xC8000000 = .illegal .nonzeroField ∧
    decode 0x4C000000 = .illegal .laneAddress ∧ decode 0xE0000000 = .illegal .unusedOpcode ∧
    decode 0xF0000000 = .illegal .unusedOpcode := by decide
theorem test_decodeTableWord : decodeTableWord 32 0x5048C010 = some (.g 0 4 8 12 0 1) ∧
    decodeTableWord 32 0 = none := by decide
/-- The words of R55's examples, from their commands. -/
theorem test_encode : encode (.xor 12 12 0) = 0x16300000 ∧ encode (.addm 0 0 4 1) = 0x30008200 ∧
    encode (.rotr 4 4 63) = 0x421001F8 ∧ encode (.g 0 4 8 12 0 1) = 0x5048C010 ∧
    encode (.ldchunk 1) = 0x80000001 := by decide
/-- R55's syntax. -/
theorem test_asm : asmText (.addm 0 0 4 1) = "ADDM v0, v0, v4, m1" ∧ asmText (.xor 16 23 15) = "XOR h0, h7, v15" ∧
    asmText (.round 11) = "ROUND #11" ∧ asmText .stdig = "STDIG" := by decide +kernel
/-- Program P1's words are the expansion of GP. -/
theorem test_expand_gp : (expand (.gp 0 4 8 12 0 1)).map encode =
    [0x30008000, 0x16300000, 0x46300100, 0x24218000, 0x12110000, 0x421000C0,
     0x30008200, 0x16300000, 0x46300080, 0x24218000, 0x12110000, 0x421001F8] := by decide
/-- Program P4's words 2 to 15 are the expansion of COMPRESSX #1; MOV and XRR. -/
theorem test_expand_compressx : (expand (.compressx true)).map encode =
    [0x90000001, 0x60000000, 0x60000001, 0x60000002, 0x60000003, 0x60000004, 0x60000005, 0x60000006,
     0x60000007, 0x60000008, 0x60000009, 0x6000000A, 0x6000000B, 0xA0000000] ∧
    expand (.mov 3 20) = [.rotr 3 20 0] ∧ expand (.xrr 12 12 0 32) = [.xor 12 12 0, .rotr 12 12 32] := by decide

/-! ### Lane commands -/

/-- V-X4. -/
theorem test_xor : (after (exec (.xor 2 0 1) (lanes 0x0123456789abcdef 0xfedcba9876543210 0))).v[2] = some ones := by
  decide
/-- Program P7: a command on h. -/
theorem test_xor_h : (after (exec (.xor 0 16 17) { State.reset with h := written hC1 })).v[0] =
    some 0xd16e48e276777e13 := by decide
/-- V-A4. -/
theorem test_add_wraps : (after (exec (.add 0 0 1) (lanes ones ones 0))).v[0] = some 0xfffffffffffffffe := by decide
/-- Program P7: the sum carries out of bit 63. -/
theorem test_add_h : (after (exec (.add 1 16 17) { State.reset with h := written hC1 })).v[1] =
    some 0x257194ed77888063 := by decide
/-- V-M4. -/
theorem test_addm : (after (exec (.addm 1 0 1 0) (lanes ones ones ones))).v[1] = some 0xfffffffffffffffd := by decide
/-- V-M2, into a lane of h. -/
theorem test_addm_h : (after (exec (.addm 23 0 1 0) (lanes 1 2 3))).h[7] = some 6 := by decide
/-- V-R6: rotation by 63 is left rotation by 1. -/
theorem test_rotr : (after (exec (.rotr 5 0 63) (lanes 0x0123456789abcdef 0 0))).v[5] = some 0x02468acf13579bde := by
  decide
/-- V-R3; V-R1. -/
theorem test_rotr_16 : (after (exec (.rotr 0 0 16) (lanes 0x0123456789abcdef 0 0))).v[0] = some 0xcdef0123456789ab ∧
    (after (exec (.rotr 1 0 0) (lanes 0x0123456789abcdef 0 0))).v[1] = some 0x0123456789abcdef := by decide

/-! ### G and ROUND -/

/-- V-G2. -/
theorem test_g : (fun t : State => (t.v[0], t.v[4], t.v[8], t.v[12], t.v[1]))
      (after (exec (.g 0 4 8 12 0 1) (block (Vector.replicate 16 ones) (Vector.replicate 16 ones)))) =
    (some 0x000000fffffffdfc, some 0xfbf801fbfe0403fd, some 0xfdfc000200fdfffe, some 0xfdfc000000fdffff, some ones) := by
  decide +kernel
/-- V-G3: two indices coincide. -/
theorem test_g_aliased : (fun t : State => (t.v[0], t.v[8], t.v[12], t.v[4]))
      (after (exec (.g 0 0 8 12 5 7) (block (Vector.ofFn fun i => BitVec.ofNat 64 i.val)
        (Vector.ofFn fun i => BitVec.ofNat 64 i.val)))) =
    (some 0x240e34123412241e, some 0x120700091a090008, some 0x120700001a090000, some 4) := by decide +kernel
/-- V-RD2. -/
theorem test_round : (after (exec (.round 0) (block vC3 mC2))).v = written #v[
    0x6c60aa21caf5411b, 0x873433c58cd64ee0, 0xc31fb6be780573aa, 0x7404fe7472627484,
    0x1a2bc8839e2bb3c2, 0x3302930b348119a7, 0xe7b63c345581e718, 0xde1781539975338e,
    0xe1e348e0a92e5d0a, 0x8a8186c83cf26d5f, 0xd231796c00b8ad59, 0xf0fef3d517171510,
    0x819342e37ee3ec74, 0xa55f70f59f45697c, 0xac561639b436e68f, 0xcd5e3e3ea75e481b] := by decide +kernel

/-! ### Compression commands -/

/-- V-C1. -/
theorem test_init : (after (exec .init State.reset)).h = written hC1 := by decide
/-- V-C2. -/
theorem test_ldchunk_key : (after (exec (.ldchunk 0) (built []))).m = written mC2 ∧
    (after (exec (.ldchunk 0) (built []))).t = some 128 := by decide +kernel
/-- V-C7: the padding reads 0 and does not count in t. -/
theorem test_ldchunk_padded : (after (exec (.ldchunk 1) (built message56))).m = written #v[
      0x6564636264636261, 0x6766656466656463, 0x6968676668676665, 0x6b6a69686a696867,
      0x6d6c6b6a6c6b6a69, 0x6f6e6d6c6e6d6c6b, 0x71706f6e706f6e6d, 0, 0, 0, 0, 0, 0, 0, 0, 0] ∧
    (after (exec (.ldchunk 1) (built message56))).t = some 184 := by decide +kernel
/-- V-C3. -/
theorem test_seed : (after (exec (.seed true) loaded)).v = written vC3 := by decide
/-- V-C4. -/
theorem test_feed : (after (exec .feed { loaded with v := written vRD3 })).h = written hC4 ∧
    (after (exec .feed { loaded with v := written vRD3 })).v[15] = none := by decide +kernel
/-- V-C5. -/
theorem test_compress : (after (exec (.compress true) loaded)).h = written hC4 := by decide +kernel
/-- Program P3, after cp 2. -/
theorem test_compress_not_last : (after (exec (.compress false) loaded)).h[0] = some 0x4143a536b99174f3 := by
  decide +kernel
/-- V-C6, and the hex spelling of R98: the empty message's digest. -/
theorem test_stdig : (after (exec .stdig { State.reset with h := written hC4 })).digestHex =
    some "e58199f28d56fea2ec39fa5e6f2720d27a38d0b187c1cde079d37e3f799b5dd0" := by decide +kernel

/-! ### Faults (P5), fetch and construction -/

/-- P5 (a). -/
theorem test_chunk_range : step { ready [0x80000001] with h := written hC1 } =
    .next { ready [0x80000001] with h := written hC1, fault := 3 } := by rfl
/-- P5 (b). -/
theorem test_unwritten_read : step (ready [0x10044000]) = .next { ready [0x10044000] with fault := 2 } := by rfl
/-- P5 (d). -/
theorem test_illegal_command : step (ready [0x6000000C]) = .next { ready [0x6000000C] with fault := 1 } := by rfl
/-- A fetched INIT, from reset. -/
theorem test_withFetchWord : (after (step (State.reset.withFetchWord 32 0x70000000))).h = written hC1 ∧
    (after (step (State.reset.withFetchWord 32 0x70000000))).cp = 1 := by decide +kernel
/-- V-H1 to V-H6. -/
theorem test_length_check :
    lengthAdmitted 3 8 3 = true ∧ lengthAdmitted 3 8 2 = true ∧ lengthAdmitted 3 8 4 = false ∧
    lengthAdmitted 3 8 1 = false ∧ lengthAdmitted 0 8 0 = true ∧ lengthAdmitted 0 8 1 = false := by decide
/-- V-H7, V-H8. -/
theorem test_refused_width : lengthAdmitted 8 7 7 = true ∧ lengthAdmitted 2 16 3 = true ∧
    configurationAdmitted Config.Params.standard 7 7 = false ∧
    configurationAdmitted Config.Params.standard 16 3 = false ∧
    configurationAdmitted Config.Params.standard 8 3 = true := by decide
/-- R97. -/
theorem test_chunk_counts : [0, 3, 56, 113, 128, 129].map chunkCount = [1, 2, 2, 2, 2, 3] := by decide
/-- R96 for the messages of programs P2 and P3. -/
theorem test_driver_stream :
    (driverStream 0).map encode = [0x70000000, 0x80000000, 0xB0000001, 0xC0000000] ∧
    (driverStream 56).map encode =
      [0x70000000, 0x80000000, 0xB0000000, 0x80000001, 0xB0000001, 0xC0000000] := by decide

/-! ### Field level (V-F1 to V-F6) -/

/-- An assignment of the first wires, the others 0. -/
def assigned (xs : List Nat) : Nat → Int := assignmentOf xs

/-- V-F1. -/
theorem test_xor_bit : ∀ x y : Bool, (xorBit (.ofId 0) (.ofId 1) 2).eval
    (assigned [x.toNat, y.toNat, (x && y).toNat]) = (x ^^ y).toNat := by decide
/-- V-F2, V-F3: the witness of the true carry satisfies the trim, and the low lane is the vector's. -/
theorem test_trim :
    ((trim 65 (.ofConst 0x1fffffffffffffffe) ⟨0, []⟩).2.record.all fun c =>
      c.holds Config.defaultFieldPrime (assigned (0 :: List.replicate 64 1))) = true ∧
    ((trim 66 (.ofConst 0x2fffffffffffffffd) ⟨0, []⟩).2.record.all fun c =>
      c.holds Config.defaultFieldPrime (assigned (1 :: 0 :: List.replicate 62 1 ++ [0, 1]))) = true ∧
    (trim 66 (.ofConst 0x2fffffffffffffffd) ⟨0, []⟩).1.packed.eval
      (assigned (1 :: 0 :: List.replicate 62 1 ++ [0, 1])) = 0xfffffffffffffffd := by decide +kernel
/-- V-F5: the largest sum of eight bits is 255, so no bits make 256. -/
theorem test_explode_8 : (pack (explode 8 (.ofConst 256) ⟨0, []⟩).1).eval (fun _ => 1) = 255 := by decide
/-- V-F6: the bits of X pack to X. -/
theorem test_pack : (pack ((List.range 64).map fun i => Wire.ofConst
      (((0x0123456789abcdef : Word64).getLsbD i).toNat : Nat))).eval (fun _ => 0) = 0x0123456789abcdef := by decide +kernel

/-! ### Witnesses: encoding -/

theorem witness_DecodeEncodeRoundTrip : (Instr.xor 23 0 16).wellFormed = true ∧ (Instr.round 11).wellFormed = true ∧
    (Instr.ldchunk 268435455).wellFormed = true := by decide
theorem witness_EncodeDecodeRoundTrip : decode 0x11BC0000 = .command (.xor 3 15 0) := by decide
/-- Words on each side of the bounds of R51 (c) and (d). -/
theorem witness_IllegalWordsAreThoseOfTheSpec :
    decode 0x1B800000 = .command (.xor 23 0 0) ∧ decode 0x1C000000 = .illegal .laneAddress ∧
    decode 0x6000000B = .command (.round 11) ∧ decode 0x6000000C = .illegal .roundNumber := by decide
theorem witness_MaskRowsSelectTheirCommands : decode 0x11BC0000 = .command (.xor 3 15 0) ∧
    ∃ row ∈ opcodeRows, row.selects 0x1C000000 = true := by decide
theorem witness_LaneAddressMap : laneOf 15 = some (.v 15) ∧ laneOf 16 = some (.h 0) ∧ laneOf 23 = some (.h 7) ∧
    laneOf 24 = none ∧ decode 0x1B800000 = .command (.xor 23 0 0) ∧ decode 0x2B800000 = .command (.add 23 0 0) ∧
    decode 0x3B800000 = .command (.addm 23 0 0 0) ∧ decode 0x4B800000 = .command (.rotr 23 0 0) := by decide

/-! ### Witnesses: the step, faults and the end of a run -/

theorem witness_StepRunsTheFetchedCommand : ∃ words, (ready [0x70000000]).refused = false ∧
    (ready [0x70000000]).fault = 0 ∧ (ready [0x70000000]).built = true ∧ (ready [0x70000000]).stream = some words ∧
    words[(ready [0x70000000]).cp]? = some 0x70000000 ∧ decode 0x70000000 = .command .init ∧
    ∃ t, exec .init (ready [0x70000000]) = .next t :=
  ⟨_, by decide, by decide, by decide, rfl, by decide, by decide, _, rfl⟩
theorem witness_IllegalCommandsRaise : (∃ w, decode w = .command .init) ∧ (∃ words, (ready [0]).refused = false ∧ (ready [0]).fault = 0 ∧
    (ready [0]).built = true ∧ (ready [0]).stream = some words ∧ words[(ready [0]).cp]? = some 0 ∧ IllegalWord 0) ∧
    (Instr.round 12).wellFormed = false ∧ State.reset.fault = 0 :=
  ⟨⟨0x70000000, by decide⟩, ⟨_, by decide, by decide, by decide, rfl, by decide, .inl (.inl rfl)⟩, by decide, by decide⟩
/-- The three faults of FaultsPerCommand, each raised by a word. -/
theorem witness_FaultsPerCommand : State.reset.fault = 0 ∧ IllegalWord 0xF0000000 ∧
    (decode 0x10044000 = .command (.xor 0 1 2) ∧ OperandUnwritten State.reset (.xor 0 1 2)) ∧
    (decode 0x80000001 = .command (.ldchunk 1) ∧ ChunkOutOfRange State.reset (.ldchunk 1)) ∧
    ¬ ChunkOutOfRange State.reset (.ldchunk 0) :=
  ⟨by decide, .inl (.inr (.inr (.inr rfl))), ⟨by decide, .inl ⟨.v 1, by decide, by decide⟩⟩,
    ⟨by decide, by unfold ChunkOutOfRange; decide⟩, by unfold ChunkOutOfRange; decide⟩
theorem witness_FaultEntryIsPrecise : ∃ t, step (ready [0x10044000]) = .next t ∧ t.fault ≠ 0 :=
  ⟨_, test_unwritten_read, by decide⟩
theorem witness_CommandPointerRule : (∃ t, step (ready [0x70000000]) = .next t ∧ t.fault = 0) ∧
    ∃ t, step (ready [0x6000000C]) = .next t ∧ t.fault ≠ 0 :=
  ⟨⟨_, rfl, by decide⟩, _, test_illegal_command, by decide⟩
theorem witness_OnlyResetClearsFault : ({ State.reset with fault := 1 } : State).fault ≠ 0 ∧
    ∃ t, hostMove .read { State.reset with fault := 1 } = some t ∧ HostMove.read ≠ .reset := ⟨by decide, _, rfl, by decide⟩
/-- A state for each clause of EndOfRun. -/
theorem witness_EndOfRun : (ready []).final = true ∧
    (({ ready [] with fault := 5 } : State).fault ≠ 0 ∧ ({ ready [] with fault := 5 } : State).refused = false) ∧
    ({ State.reset with refused := true } : State).refused = true ∧
    (State.reset.runEnded = false ∧ State.reset.built = false) ∧
    (built []).runEnded = false ∧ (built []).built = true ∧ (built []).stream = none := by decide

/-! ### Witnesses: lane commands, G and ROUND -/

theorem witness_XorCompletes : laneOf 23 = some (.h 7) ∧ laneOf 0 = some (.v 0) ∧ laneOf 1 = some (.v 1) ∧
    (lanes 5 6 7).lane (.v 0) = some 5 ∧ (lanes 5 6 7).lane (.v 1) = some 6 := by decide
theorem witness_AddCompletes : laneOf 0 = some (.v 0) ∧ laneOf 1 = some (.v 1) ∧
    (lanes ones 1 7).lane (.v 0) = some ones ∧ (lanes ones 1 7).lane (.v 1) = some 1 := by decide
theorem witness_AddmCompletes : laneOf 0 = some (.v 0) ∧ laneOf 1 = some (.v 1) ∧
    (lanes ones ones ones).lane (.v 0) = some ones ∧ (lanes ones ones ones).lane (.v 1) = some ones ∧
    (lanes ones ones ones).m[(0 : MsgIndex)] = some ones := by decide
theorem witness_RotrCompletes : laneOf 16 = some (.h 0) ∧ laneOf 0 = some (.v 0) ∧
    (lanes 5 6 7).lane (.v 0) = some 5 := by decide
theorem witness_RotationLaws : (0 : Nat) < 64 ∧ 63 < 64 := by decide
theorem witness_LaneCommandFrame :
    (∃ t, exec (.xor 2 0 1) (lanes 5 6 7) = .next t) ∧ (∃ t, exec (.add 2 0 1) (lanes 5 6 7) = .next t) ∧
    (∃ t, exec (.addm 2 0 1 0) (lanes 5 6 7) = .next t) ∧ (∃ t, exec (.rotr 2 0 1) (lanes 5 6 7) = .next t) ∧
    laneOf 2 ≠ some (.v 3) := ⟨⟨_, rfl⟩, ⟨_, rfl⟩, ⟨_, rfl⟩, ⟨_, rfl⟩, by decide⟩
/-- Distinct indices, and indices that coincide. -/
theorem witness_MixCommandCompletes : ∀ i : WorkIndex, (block vC3 mC2).v[i] = some vC3[i] ∧
    (block vC3 mC2).m[i] = some mC2[i] := by decide
theorem witness_MixOfDistinctLanes : ([0, 4, 8, 12] : List (Fin 16)).Nodup := by decide
theorem witness_MixEqualsItsPrimitives : (block vC3 mC2).fault = 0 ∧
    ∃ t, exec (.g 0 4 8 12 0 1) (block vC3 mC2) = .next t ∧ t.fault = 0 :=
  ⟨by decide, _, next_after (by decide +kernel), by decide +kernel⟩
theorem witness_RoundCompletes : (11 : RoundNumber).val < 12 ∧ (block vC3 mC2).v = written vC3 ∧
    (block vC3 mC2).m = written mC2 := ⟨by decide, rfl, rfl⟩
theorem witness_RowsRepeatAfterTenRounds : 9 < 12 ∧ 10 < 12 ∧ 11 < 12 := by decide
theorem witness_ColumnAndDiagonalOrder :
    (columnSets.map fun q => (q, (1 : Word64), (2 : Word64))).map (fun c => c.1) = columnSets ∧
    (diagonalSets.map fun q => (q, (1 : Word64), (2 : Word64))).map (fun c => c.1) = diagonalSets ∧
    (columnSets.map fun q => (q, (1 : Word64), (2 : Word64))).reverse.Perm
      (columnSets.map fun q => (q, (1 : Word64), (2 : Word64))) :=
  ⟨by decide, by decide, List.reverse_perm _⟩

/-! ### Witnesses: compression commands -/

theorem witness_InitCompletes : State.reset.params.iv = Config.defaultIv := rfl
theorem witness_ChunkLoadIsLittleEndian : 128 * (0 : ChunkIndex).val < (built []).bufLen ∧
    128 * (1 : ChunkIndex).val < (built [7]).bufLen := by decide +kernel
/-- The first chunk, and the last chunk LDCHUNK can name, full. -/
theorem witness_ChunkCounter : (∃ t, exec (.ldchunk 0) (built []) = .next t ∧ 128 * (0 : ChunkIndex).val < (built []).bufLen) ∧
    ∃ t, exec (.ldchunk 268435455) { State.reset with len := 2 ^ 35 - 128 } = .next t ∧
      128 * (268435455 : ChunkIndex).val < ({ State.reset with len := 2 ^ 35 - 128 } : State).bufLen :=
  ⟨⟨_, next_after (by decide +kernel), by decide +kernel⟩, _, next_after (by decide +kernel), by decide +kernel⟩
theorem witness_ChunkRangeAndPadding : State.reset.bufLen ≤ 128 ∧ State.reset.fault = 0 ∧
    chunkCount State.reset.len ≤ (1 : ChunkIndex).val ∧ (0 : ChunkIndex).val < chunkCount State.reset.len := by decide
/-- Two states that agree on the bytes LDCHUNK #0 may read. -/
theorem witness_ChunkRangeAndPadding_reads :
    (∀ a < 128 * chunkCount State.reset.len, (lanes 5 6 7).bufByte a = State.reset.bufByte a) ∧
    (∃ t, exec (.ldchunk 0) State.reset = .next t) ∧ ∃ t, exec (.ldchunk 0) (lanes 5 6 7) = .next t :=
  ⟨fun _ _ => rfl, ⟨_, next_after (by decide +kernel)⟩, ⟨_, next_after (by decide +kernel)⟩⟩
theorem witness_SeedCompletes : loaded.h = written hC1 ∧ loaded.t = some 128 := ⟨rfl, rfl⟩
theorem witness_FeedCompletes : ({ loaded with v := written vRD3 } : State).h = written hC1 ∧
    ({ loaded with v := written vRD3 } : State).v = written vRD3 := ⟨rfl, rfl⟩
theorem witness_CompressCompletes : loaded.h = written hC1 ∧ loaded.m = written mC2 ∧ loaded.t = some 128 :=
  ⟨rfl, rfl, rfl⟩
theorem witness_CompressEqualsItsExpansion : loaded.fault = 0 ∧
    ∃ t, exec (.compress true) loaded = .next t ∧ t.fault = 0 :=
  ⟨by decide, _, next_after (by decide +kernel), by decide +kernel⟩
/-- h[4..7] hold no value. -/
theorem witness_DigestStoreIsLittleEndian : Memory.wf outUnlisted State.reset.out ∧
    ∀ i : Fin 4, ({ State.reset with h := #v[some 1, some 2, some 3, some 4, none, none, none, none] } : State).h[i.val] =
      some (#v[1, 2, 3, 4] : Vector Word64 4)[i] := by decide
theorem witness_WorkingVectorCommandFrame : (∃ t, exec (.g 0 4 8 12 0 1) (block vC3 mC2) = .next t) ∧
    (∃ t, exec (.round 0) (block vC3 mC2) = .next t) ∧ (∃ t, exec (.seed true) loaded = .next t) :=
  ⟨⟨_, next_after (by decide +kernel)⟩,
    ⟨_, next_after (by decide +kernel)⟩, ⟨_, next_after (by decide +kernel)⟩⟩
theorem witness_ChainingCommandFrame : (∃ t, exec .init State.reset = .next t) ∧
    (∃ t, exec .feed { loaded with v := written vRD3 } = .next t) ∧
    (∃ t, exec (.compress true) loaded = .next t) ∧ (∃ t, exec (.ldchunk 0) State.reset = .next t) ∧
    (∃ t, exec .stdig loaded = .next t) :=
  ⟨⟨_, rfl⟩, ⟨_, next_after (by decide +kernel)⟩, ⟨_, next_after (by decide +kernel)⟩,
    ⟨_, next_after (by decide +kernel)⟩, ⟨_, next_after (by decide +kernel)⟩⟩
/-- LDCHUNK writes m, STDIG writes Out, FEED takes a value from v. -/
theorem witness_WhoWritesWhat : (∃ t, exec (.ldchunk 0) State.reset = .next t ∧ t.t ≠ State.reset.t) ∧
    (∃ t, exec .stdig loaded = .next t ∧ readByte outUnlisted t.out 0 ≠ readByte outUnlisted loaded.out 0) ∧
    ∃ t, exec .feed { loaded with v := written vRD3 } = .next t ∧ t.lane (.v 0) = none ∧
      ({ loaded with v := written vRD3 } : State).lane (.v 0) ≠ none :=
  ⟨⟨_, next_after (by decide +kernel), by decide +kernel⟩, ⟨_, next_after (by decide +kernel), by decide +kernel⟩,
    ⟨_, next_after (by decide +kernel), by decide +kernel, by decide +kernel⟩⟩
theorem witness_BufImmutableDuringRun : (∃ t, step (ready [0x70000000]) = .next t) ∧ (ready []).built = true ∧
    ∃ t, hostMove .reset (ready []) = some t := ⟨⟨_, rfl⟩, by decide, _, rfl⟩

/-! ### Witnesses: invariants -/

theorem ready_memories (words : List CommandWord) : MemoriesCanonical (ready words) :=
  ⟨by show Memory.wf bufUnlisted (built []).buf; decide +kernel,
    by show (built []).built = true → ∀ c ∈ (built []).buf, c.1 < (built []).bufLen; decide +kernel,
    by show Memory.wf outUnlisted (built []).out; decide +kernel, .inl rfl⟩

theorem ready_control (words : List CommandWord) : ControlLegal (ready words) where
  faultCode := by show (built []).fault.toNat ≤ 5; decide
  pointer ws _ := Nat.zero_le ws.length
  admitted := by
    show (built []).built = true → lengthAdmitted (built []).nIn (built []).bwIn (built []).len = true ∧
      configurationAdmitted (built []).params (built []).bwIn (built []).len = true
    decide
  unbuilt h := by cases h
  start h := by cases h

theorem witness_StepKeepsInvariants : MemoriesCanonical (ready [0x70000000]) ∧ ControlLegal (ready [0x70000000]) ∧
    ∃ t, step (ready [0x70000000]) = .next t := ⟨ready_memories _, ready_control _, _, rfl⟩
theorem witness_HostMovesKeepInvariants : MemoriesCanonical (ready [0x70000000]) ∧ ControlLegal (ready [0x70000000]) ∧
    ∃ t, hostMove (.writeLane .inputWire (.m 15) 18446744073709551615) (ready [0x70000000]) = some t :=
  ⟨ready_memories _, ready_control _, _, rfl⟩
theorem witness_ResetValues : ∃ t t' t'', hostMove .reset (ready []) = some t ∧
    hostMove (.construct emptyMessage) t = some t' ∧ hostMove (.supplyStream [0x70000000]) t' = some t'' :=
  ⟨_, _, _, rfl, rfl, rfl⟩

/-! ### Witnesses: the field level -/

/-- A prime above 2^66. -/
abbrev prime89 : Nat := 2 ^ 89 - 1

theorem prime89_prime : prime89.Prime := lucas_lehmer_sufficiency 89 (by norm_num) (by norm_num)

/-- The machine's parameters over that prime. -/
def params89 : Config.Params := { Config.Params.standard with fieldPrime := prime89 }

theorem witness_ExplodeHasOneWitness : prime89.Prime ∧ 2 ^ 8 ≤ prime89 ∧ (Wire.ofId 0).Below 1 :=
  ⟨prime89_prime, by norm_num, Nat.one_pos⟩
theorem witness_FieldXorOfBits : 2 < prime89 ∧ (Wire.ofConst 1).value prime89 (fun _ => 1) = true.toNat ∧
    (Wire.ofId 0).value prime89 (fun _ => 1) = true.toNat ∧
    (Constraint.multiplication (Wire.ofId 1) (Wire.ofConst 1) (Wire.ofId 0)).Holds prime89 (fun _ => 1) := by decide +kernel
/-- The largest raw sums. -/
theorem witness_TrimSoundness : prime89.Prime ∧ 2 ^ 66 < prime89 ∧
    ((Wire.ofConst 0x1fffffffffffffffe).Below 0 ∧
      (Wire.ofConst 0x1fffffffffffffffe).value prime89 (fun _ => 0) < 2 ^ 65) ∧
    (Wire.ofConst 0x2fffffffffffffffd).Below 0 ∧
      (Wire.ofConst 0x2fffffffffffffffd).value prime89 (fun _ => 0) < 2 ^ 66 :=
  ⟨prime89_prime, by norm_num, ⟨trivial, by decide +kernel⟩, trivial, by decide +kernel⟩
/-- The least sums one bit too wide, and V-F4. -/
theorem witness_TrimWidthsAreMinimal : prime89.Prime ∧ 2 ^ 66 < prime89 ∧
    2 ^ 64 ≤ (Wire.ofConst 0x10000000000000000).value prime89 (fun _ => 0) ∧
    2 ^ 65 ≤ (Wire.ofConst 0x20000000000000000).value prime89 (fun _ => 0) ∧
    2 ^ 65 ≤ (Wire.ofConst 0x2fffffffffffffffd).value prime89 (fun _ => 0) :=
  ⟨prime89_prime, by norm_num, by decide +kernel, by decide +kernel, by decide +kernel⟩

/-- The zero lane with its bits exploded. -/
def zeroLane : LaneRep := { packed := .ofConst 0, bits := some (List.replicate 64 (.ofConst 0)) }

theorem zeroLane_means (assign : Nat → Int) : zeroLane.Means prime89 assign 0 := by
  refine ⟨rfl, fun bits e => ?_⟩
  cases e
  refine ⟨rfl, fun i b hb => ?_⟩
  obtain ⟨lt, rfl⟩ := List.getElem?_eq_some_iff.1 hb
  rw [List.getElem_replicate]
  simp [Wire.value, Wire.eval]

theorem ofWord_means (x : Word64) (assign : Nat → Int) : (LaneRep.ofWord x).Means prime89 assign x := by
  refine ⟨?_, fun bits e => by cases e⟩
  have := x.isLt
  have big : ((prime89 : Nat) : Int) = 618970019642690137449562111 := by norm_num
  exact Int.emod_eq_of_lt (by simp [LaneRep.ofWord]) (by simp only [LaneRep.ofWord, Wire.eval]; omega)

/-- Operands of both representations: one with exploded bits, two packed only. -/
theorem witness_LaneCircuitsComputeTheirValues : prime89.Prime ∧ 2 ^ 66 < prime89 ∧ zeroLane.Below 0 ∧
    (LaneRep.ofWord ones).Below 0 ∧ zeroLane.Means prime89 (fun _ => 0) 0 ∧
    (LaneRep.ofWord ones).Means prime89 (fun _ => 0) ones := by
  refine ⟨prime89_prime, by norm_num, ⟨trivial, fun bits e b hb => ?_⟩, ⟨trivial, fun bits e => by cases e⟩,
    zeroLane_means _, ofWord_means _ _⟩
  cases e
  rw [List.eq_of_mem_replicate hb]
  trivial

/-- The empty message's gadget over that prime, ready to run INIT. -/
def ready89 : State :=
  { State.construct { State.reset with params := params89 } emptyMessage with stream := some [0x70000000] }

theorem ready89_memories : MemoriesCanonical ready89 :=
  ⟨by show Memory.wf bufUnlisted (built []).buf; decide +kernel,
    by show (built []).built = true → ∀ c ∈ (built []).buf, c.1 < (built []).bufLen; decide +kernel,
    by show Memory.wf outUnlisted (built []).out; decide +kernel, .inl rfl⟩

theorem ready89_circuit : CircuitCorrect ready89 := by
  have below : LaneRep.unwritten.Below 0 := ⟨trivial, fun bits e => by cases e⟩
  have rec0 : ready89.field.arena.record = [] := rfl
  refine ⟨prime89_prime, by show 2 ^ 66 < prime89; norm_num,
    ⟨fun c hc => (by rw [rec0] at hc; cases hc), fun i => ?_, fun i => ?_, fun i => ?_, fun w hw => by cases hw⟩,
    fun _ => ⟨le_refl 0, le_refl 0⟩, (fun c hc => by cases hc), fun assign _ => ?_,
    ⟨fun _ => 0, ⟨fun c hc => (by rw [rec0] at hc; cases hc), fun _ i hi => absurd hi (Nat.not_lt_zero i),
      fun c hc => by cases hc⟩⟩,
    fun _ _ _ _ n lt _ => absurd lt (Nat.not_lt_zero n)⟩
  · have : ready89.field.v[i] = LaneRep.unwritten := by revert i; decide
    rw [this]; exact below
  · have : ready89.field.h[i] = LaneRep.unwritten := by revert i; decide
    rw [this]; exact below
  · have : ready89.field.m[i] = LaneRep.unwritten := by revert i; decide
    rw [this]; exact below
  · refine ⟨fun i x e => ?_, fun i x e => ?_, fun i x e => ?_, fun a b e => by cases e⟩
    · have : ready89.v[i] = none := by clear e; revert i; decide
      rw [this] at e; cases e
    · have : ready89.h[i] = none := by clear e; revert i; decide
      rw [this] at e; cases e
    · have : ready89.m[i] = none := by clear e; revert i; decide
      rw [this] at e; cases e

theorem witness_StepKeepsCircuitCorrect : MemoriesCanonical ready89 ∧ CircuitCorrect ready89 ∧
    ∃ t, step ready89 = .next t := ⟨ready89_memories, ready89_circuit, _, rfl⟩
theorem witness_HostMovesKeepCircuitCorrect : CircuitCorrect ready89 ∧
    ∃ t, hostMove (.writeLane .inputWire (.v 0) 5) ready89 = some t := ⟨ready89_circuit, _, rfl⟩
theorem witness_ResetCircuitCorrect : params89.fieldPrime.Prime ∧ 2 ^ 66 < params89.fieldPrime :=
  ⟨prime89_prime, by show 2 ^ 66 < prime89; norm_num⟩
theorem witness_RecordIsAppendOnly : (∃ t, step (ready [0x80000000]) = .next t) ∧
    (∃ t, hostMove .read (ready []) = some t ∧ HostMove.read ≠ .reset) ∧
    ∃ t, hostMove (.writeLane .inputWire (.v 0) 5) State.reset = some t := ⟨⟨_, rfl⟩, ⟨_, rfl, by decide⟩, _, rfl⟩
theorem witness_ConstraintCost : (∀ n bits, ((block vC3 mC2).field.rep n).bits = some bits → bits.length = 64) ∧
    (∃ t, exec (.g 0 4 8 12 0 1) (block vC3 mC2) = .next t ∧ t.cp = (block vC3 mC2).cp + 1) ∧
    (∀ n bits, (loaded.field.rep n).bits = some bits → bits.length = 64) ∧
    ∃ t, exec (.compress true) loaded = .next t ∧ t.cp = loaded.cp + 1 := by
  have none0 : ∀ n, (FieldLevel.initial.rep n).bits = none := by
    intro n
    cases n with
    | v i => revert i; decide
    | h i => revert i; decide
    | m i => revert i; decide
  refine ⟨fun n bits e => ?_, ⟨_, next_after (by decide +kernel), by decide +kernel⟩, fun n bits e => ?_,
    ⟨_, next_after (by decide +kernel), by decide +kernel⟩⟩
  · exact absurd ((none0 n).symm.trans e) (by simp)
  · exact absurd ((none0 n).symm.trans e) (by simp)
/-- A record no witness violates, and one that every witness violates. -/
theorem witness_WitnessJudgement : (ready []).final = true ∧
    Satisfies (ready []).params.fieldPrime (assignmentOf []) (ready []).field.arena.record ∧
    ({ ready [] with field := { (ready []).field with arena := ⟨0, [.linear (.ofConst 0) (.ofConst 1)]⟩ } } : State).final =
      true ∧
    ¬ Satisfies Config.defaultFieldPrime (assignmentOf []) [.linear (.ofConst 0) (.ofConst 1)] :=
  ⟨by decide, (fun c hc => by cases hc), by decide,
    fun h => absurd (h _ (List.mem_singleton.2 rfl)) (by decide +kernel)⟩
theorem witness_HostLanePort : State.reset.runEnded = false ∧ 2 ^ 64 ≤ 0x10000000000000000 ∧ LaneName.h 7 ≠ .v 7 := by
  decide
/-- An input wire written to v[0] that carries 5, with the assignment of its wire and its bits. -/
theorem witness_HostLanePort_input :
    ((State.reset.portWrite .inputWire (.v 0) 5).field.arena.record.all fun c =>
      c.holds prime89 (assigned [5, 1, 0, 1])) = true ∧ assigned [5, 1, 0, 1] 0 % (prime89 : Int) = 5 ∧
    (State.reset.portWrite .inputWire (.v 0) 5).lane (.v 0) = some 5 := by decide +kernel
/-- R90: the host reads after the run ends, and only then. -/
theorem test_host_read : hostMove .read (ready [0x70000000]) = none ∧ hostMove .read (ready []) = some (ready []) :=
  ⟨rfl, rfl⟩

/-! ### Witnesses: construction and the driver -/

theorem witness_ConstructionLengthCheck : State.reset.built = false ∧ State.reset.runEnded = false := by decide
/-- V-H1 and V-H7: one admitted, one refused. -/
theorem witness_ConstructionRefusal : State.reset.built = false ∧ State.reset.runEnded = false ∧
    lengthAdmitted 3 8 3 = true ∧ lengthAdmitted 8 7 7 = true := by decide
/-- The bounds of the other two grounds: 2^28 chunks and one more, and P = 2^66 and one more. -/
theorem witness_ConstructionRefusal_bounds :
    lengthAdmitted (List.replicate (2 ^ 35 - 128) (0 : Byte)).length 8 (2 ^ 35 - 128) = true ∧
    chunkCount (2 ^ 35 - 128) = 2 ^ 28 ∧
    configurationAdmitted params89 8 (2 ^ 35 - 128) = true ∧
    lengthAdmitted (List.replicate (2 ^ 35 - 127) (0 : Byte)).length 8 (2 ^ 35 - 127) = true ∧
    configurationAdmitted params89 8 (2 ^ 35 - 127) = false ∧
    configurationAdmitted { params89 with fieldPrime := 2 ^ 66 } 8 3 = false ∧
    configurationAdmitted { params89 with fieldPrime := 2 ^ 66 + 1 } 8 3 = true := by
  rw [List.length_replicate, List.length_replicate]
  decide +kernel
/-- V-H2: one input wire more than the message has bytes. -/
def argsH2 : ConstructArgs :=
  { inputs := [1, 2, 3], bitWidth := 8, len := 2, binaryOut := true, padReq := false, label := some "g" }

theorem witness_ConstructionBuildsBuf : State.reset.built = false ∧ State.reset.runEnded = false ∧
    lengthAdmitted argsH2.inputs.length argsH2.bitWidth argsH2.len = true ∧
    configurationAdmitted State.reset.params argsH2.bitWidth argsH2.len = true := by decide
theorem witness_DriverStreamYieldsDigest : 2 ^ 66 < params89.fieldPrime ∧ chunkCount message56.length ≤ 2 ^ 28 :=
  ⟨by show 2 ^ 66 < prime89; norm_num, by decide⟩

end Sys2Proof.Machine.Tests
end

section
/-! PROOFS. The command pointer (10_state.md R16). -/

namespace Sys2Proof.Machine

/-- Every fault has a nonzero code (60_exceptions.md R110). -/
theorem FaultCode.code_ne_zero (c : FaultCode) : c.code ≠ 0 := by
  cases c <;> decide

/-- A state that has entered a fault holds a nonzero FAULT (R117), whether or not it held one before. -/
theorem State.enterFault_fault_ne_zero (s : State) (c : FaultCode) : (s.enterFault c).fault ≠ 0 := by
  rw [State.enterFault_fault]
  split
  · exact c.code_ne_zero
  · assumption

/-- A step that answers a next state has run the word at cp. -/
theorem step_runs_word_at_cp {s t : State} (h : step s = .next t) :
    ∃ words w, s.stream = some words ∧ words[s.cp]? = some w ∧ step s = runWord s w := by
  obtain ⟨hr, hf, hb, words, w, hs, hw, _⟩ := fetched_of_step h
  exact ⟨words, w, hs, hw, step_eq_runWord hr hf hb hs hw⟩

/-- A step that answers a next state adds one to cp and leaves FAULT zero, or keeps cp and leaves FAULT nonzero. -/
theorem step_cp_cases {s t : State} (h : step s = .next t) :
    (t.fault = 0 ∧ t.cp = s.cp + 1) ∨ (t.fault ≠ 0 ∧ t.cp = s.cp) := by
  obtain ⟨_, hf, _⟩ := fetched_of_step h
  rcases step_next h with ⟨c, _, rfl⟩ | ⟨i, _, _, _, rfl⟩
  · exact .inr ⟨s.enterFault_fault_ne_zero c, s.enterFault_cp c⟩
  · refine .inl ⟨?_, ?_⟩
    · rw [State.setDriver_fault, completed_fault, hf]
    · rw [State.setDriver_cp, completed_cp]

/-- Settles O12: a step fetches at cp, and each of its outcomes, a fault entered or a command completed, treats cp as
R16 says. -/
theorem commandPointerRule : Obligations.CommandPointerRule := by
  intro s t h
  refine ⟨step_runs_word_at_cp h, ?_⟩
  rcases step_cp_cases h with ⟨hf, hcp⟩ | ⟨hf, hcp⟩
  · exact ⟨fun _ => hcp, fun ne => absurd hf ne⟩
  · exact ⟨fun eq => absurd eq hf, fun _ => hcp⟩

end Sys2Proof.Machine
end

section
/-! PROOFS. The byte order of a lane (20_memory.md R33, R34): the bits of a little-endian word, the bytes of a
digest, and where LDCHUNK and STDIG put them. -/

namespace Sys2Proof.Machine

/-- A well-formed command whose operands hold values and whose chunk is in range completes (60_exceptions.md R111). -/
theorem exec_eq_completed {i : Instr} {s : State} (wf : i.wellFormed = true) (wr : ¬ OperandUnwritten s i)
    (inside : ¬ ChunkOutOfRange s i) : exec i s = .next (completed i s) := by
  cases exec_cases i s with
  | illegal ill => rw [wf] at ill; cases ill
  | unwritten _ un => exact absurd un wr
  | range _ _ out => exact absurd out inside
  | completes _ _ _ eq => exact eq

/-- Bit `8j + i` of a little-endian value is bit `i` of byte `j`. -/
theorem testBit_leValue {i : Nat} (hi : i < 8) : ∀ (bs : List Byte) (j : Nat) (hj : j < bs.length),
    (leValue bs).testBit (8 * j + i) = bs[j].getLsbD i
  | b :: bs, j, hj => by
    have value : leValue (b :: bs) = 2 ^ 8 * leValue bs + b.toNat := by rw [leValue]; omega
    rw [value, Nat.testBit_two_pow_mul_add _ b.isLt]
    cases j with
    | zero => simp [hi, BitVec.getLsbD]
    | succ j =>
      rw [if_neg (by omega), show 8 * (j + 1) + i - 8 = 8 * j + i by omega]
      exact testBit_leValue hi bs j (Nat.lt_of_succ_lt_succ hj)

/-- `LE64` (R33): byte `j` of the word is the `j`-th byte combined. -/
theorem extractLsb'_le64 (bs : List Byte) {j : Nat} (hj : j < bs.length) (h8 : j < 8) :
    (le64 bs).extractLsb' (8 * j) 8 = bs[j] := by
  ext i hi
  rw [BitVec.getElem_extractLsb', le64, BitVec.getLsbD_ofNat, testBit_leValue hi bs j hj]
  simp only [show 8 * j + i < 64 by omega, decide_true, Bool.true_and, BitVec.getLsbD_eq_getElem hi]

/-- The lane LDCHUNK loads into `m[i]` (R33, R82). -/
theorem completed_ldchunk_m (k : ChunkIndex) (s : State) (i : Fin 16) :
    (completed (.ldchunk k) s).m[i] = some (le64 (s.memRead (128 * k.val + 8 * i.val) 8)) := by
  simp [completed, chunkWords]

/-- Byte `j` of the word read from eight bytes of Buf is the byte at the `j`-th address. -/
theorem extractLsb'_le64_memRead (s : State) (a : Nat) {j : Nat} (hj : j < 8) :
    (le64 (s.memRead a 8)).extractLsb' (8 * j) 8 = s.bufByte (a + j) := by
  rw [extractLsb'_le64 _ (by simpa [State.memRead] using hj) hj]
  simp [State.memRead]

/-- Settles O28: an LDCHUNK in range completes, and each lane it loads is the little-endian word of its eight bytes. -/
theorem chunkLoadIsLittleEndian : Obligations.ChunkLoadIsLittleEndian := by
  intro s k inRange
  have completes : exec (.ldchunk k) s = .next (completed (.ldchunk k) s) :=
    exec_eq_completed rfl (fun un => un) (Nat.not_le.2 inRange)
  exact ⟨_, completes, completed_fault _ s, completed_cp _ s, fun i =>
    ⟨_, completed_ldchunk_m k s i, fun _ hj => extractLsb'_le64_memRead s _ hj⟩⟩

/-- The digest bytes, by address (R34, R86). -/
theorem digestBytes_eq_ofFn (h : Vector Word64 8) :
    digestBytes h = List.ofFn fun n : Fin 32 => h[n.val / 8].extractLsb' (8 * (n.val % 8)) 8 := rfl

@[simp] theorem length_digestBytes (h : Vector Word64 8) : (digestBytes h).length = 32 := rfl

/-- Byte `8i + j` of the digest is byte `j` of `h[i]`. -/
theorem getElem_digestBytes (h : Vector Word64 8) (i : Fin 4) {j : Nat} (hj : j < 8) :
    (digestBytes h)[8 * i.val + j]'(by rw [length_digestBytes]; omega) = h[i.val].extractLsb' (8 * j) 8 := by
  simp only [digestBytes_eq_ofFn, List.getElem_ofFn, show (8 * i.val + j) / 8 = i.val by omega,
    show (8 * i.val + j) % 8 = j by omega]

/-- The lanes h[0..3] are all that STDIG reads (R86). -/
theorem not_operandUnwritten_stdig {s : State} {x : Vector Word64 4} (held : ∀ i : Fin 4, s.h[i.val] = some x[i]) :
    ¬ OperandUnwritten s .stdig := by
  rintro (e | e | e | e)
  · cases (held 0).symm.trans e
  · cases (held 1).symm.trans e
  · cases (held 2).symm.trans e
  · cases (held 3).symm.trans e

/-- STDIG writes the digest bytes to Out from address 0 on (R86). -/
theorem completed_stdig_out (s : State) :
    (completed .stdig s).out = writeBytes outUnlisted s.out 0 (digestBytes (wordsOf s.h)) := by
  simp [completed]

/-- STDIG puts byte `j` of `h[i]` at address `8i + j` of Out (R34). -/
theorem readByte_completed_stdig {s : State} (wf : Memory.wf outUnlisted s.out) (i : Fin 4) {j : Nat} (hj : j < 8) :
    readByte outUnlisted (completed .stdig s).out (8 * i.val + j) =
      some ((wordsOf s.h)[i.val].extractLsb' (8 * j) 8) := by
  rw [completed_stdig_out, readByte_writeBytes _ _ _ wf, dif_pos (by rw [length_digestBytes]; omega),
    ← getElem_digestBytes _ i hj]
  rfl

/-- STDIG leaves the addresses of Out from 32 on. -/
theorem readByte_completed_stdig_beyond {s : State} (wf : Memory.wf outUnlisted s.out) {a : Nat} (beyond : 32 ≤ a) :
    readByte outUnlisted (completed .stdig s).out a = readByte outUnlisted s.out a := by
  rw [completed_stdig_out, readByte_writeBytes _ _ _ wf, dif_neg (by rw [length_digestBytes]; omega)]

/-- Settles O35: an STDIG whose four lanes hold values completes, and Out reads the digest's bytes below address 32
and what it read before from there on. -/
theorem digestStoreIsLittleEndian : Obligations.DigestStoreIsLittleEndian := by
  intro s x wf held
  have completes : exec .stdig s = .next (completed .stdig s) :=
    exec_eq_completed rfl (not_operandUnwritten_stdig held) (fun out => out)
  have word (i : Fin 4) : (wordsOf s.h)[i.val] = x[i] := by simp [wordsOf, held i]
  refine ⟨_, completes, completed_fault _ s, completed_cp _ s, fun i j hj => ?_,
    fun a => readByte_completed_stdig_beyond wf⟩
  rw [readByte_completed_stdig wf i hj, word]

end Sys2Proof.Machine
end

section
/-! PROOFS. Buf and LEN after construction (20_memory.md R44). -/

namespace Sys2Proof.Machine

/-- Entering a fault writes FAULT alone (60_exceptions.md R117). -/
theorem enterFault_sameHostSide (s : State) (c : FaultCode) : SameHostSide s (s.enterFault c) :=
  ⟨rfl, rfl, rfl, rfl, rfl, rfl, rfl, rfl, rfl, rfl, rfl, rfl, rfl, rfl⟩

/-- The driver's state is not among the registers of the host side. -/
theorem SameHostSide.setDriver {s t : State} (h : SameHostSide s t) (d : Driver) : SameHostSide s (t.setDriver d) :=
  ⟨h.params, h.nIn, h.bwIn, h.len, h.binaryOut, h.padReq, h.label, h.refused, h.violation, h.built, h.inputBase,
    h.portInputs, h.buf, h.stream⟩

/-- No step writes the host side: it enters a fault, or completes a command and moves the driver. -/
theorem step_sameHostSide {s t : State} (h : step s = .next t) : SameHostSide s t := by
  rcases step_next h with ⟨c, _, rfl⟩ | ⟨i, _, _, _, rfl⟩
  · exact enterFault_sameHostSide s c
  · exact (completed_sameHostSide i s).setDriver _

/-- The lane-write port leaves Buf and LEN, in each of its forms and when it reports a raw sum (R99). -/
theorem portWrite_buf_len (s : State) (form : PortForm) (n : LaneName) (value : Nat) :
    (s.portWrite form n value).buf = s.buf ∧ (s.portWrite form n value).len = s.len := by
  rcases portWrite_cases s form n value with ⟨_, _, e⟩ | ⟨_, _, e⟩ | ⟨_, e⟩
  · simp [e, State.portConstant]
  · simp [e, State.portInput]
  · simp [e]

/-- A judgement leaves Buf and LEN (60_exceptions.md R113). -/
theorem judge_buf_len (s : State) (witness : List Nat) :
    (s.judge witness).buf = s.buf ∧ (s.judge witness).len = s.len := by
  rcases judge_cases s witness with e | ⟨c, _, _, e⟩ <;> simp [e]

/-- Of a constructed gadget every host move leaves Buf and LEN: construction, the one move that writes them, is
allowed only while no gadget is built (43_host_driver.md R90). -/
theorem hostMove_buf_len {s t : State} {mv : HostMove} (built : s.built = true) (h : hostMove mv s = some t) :
    t.buf = s.buf ∧ t.len = s.len := by
  rcases hostMove_some h with ⟨_, rfl⟩ | ⟨_, _, unbuilt, _⟩ | ⟨_, _, _, _, _, rfl⟩ | ⟨form, n, value, _, _, rfl⟩ |
    ⟨_, _, _, _, rfl⟩ | ⟨_, _, rfl⟩ | ⟨witness, _, _, rfl⟩
  · exact ⟨rfl, rfl⟩
  · rw [built] at unbuilt; cases unbuilt
  · exact ⟨rfl, rfl⟩
  · exact portWrite_buf_len s form n value
  · exact ⟨rfl, rfl⟩
  · exact ⟨rfl, rfl⟩
  · exact judge_buf_len s witness

/-- Settles O39: a step writes no register of the host side, and no host move writes Buf or LEN of a built gadget. -/
theorem bufImmutableDuringRun : Obligations.BufImmutableDuringRun :=
  ⟨fun _ _ => step_sameHostSide, fun _ _ _ => hostMove_buf_len⟩

end Sys2Proof.Machine
end

section
/-! PROOFS. The decoder and R51's illegal words (30_encoding.md R50 to R54): what each opcode's row reads from a word,
that the rows are disjoint, and what executing an illegal command does. -/

namespace Sys2Proof.Machine

variable {w : CommandWord}

/-! ### Fields as slices of the word (R52) -/

theorem toNat_extractLsb'_eq_fieldAt (w : CommandWord) (lo len : Nat) :
    (w.extractLsb' lo len).toNat = fieldAt w lo len := by
  rw [BitVec.extractLsb'_toNat, Nat.shiftRight_eq_div_pow, fieldAt]

theorem extractLsb'_eq_iff_fieldAt (w : CommandWord) (lo len : Nat) (c : BitVec len) :
    w.extractLsb' lo len = c ↔ fieldAt w lo len = c.toNat := by
  rw [← toNat_extractLsb'_eq_fieldAt, BitVec.toNat_inj]

theorem fieldAt_lt (w : CommandWord) (lo len : Nat) : fieldAt w lo len < 2 ^ len :=
  Nat.mod_lt _ (Nat.two_pow_pos len)

/-- A field is its low part and, above it, its high part. -/
theorem fieldAt_add (w : CommandWord) (lo len len' : Nat) :
    fieldAt w lo (len + len') = fieldAt w lo len + 2 ^ len * fieldAt w (lo + len) len' := by
  rw [fieldAt, pow_add, Nat.mod_mul, Nat.div_div_eq_div_mul, ← pow_add, fieldAt, fieldAt]

/-- A field read as a number below the bound of its width is the field (R52). -/
theorem val_finAt {n len : Nat} [NeZero n] (width : n = 2 ^ len) (w : CommandWord) (lo : Nat) :
    (finAt n w lo len).val = fieldAt w lo len :=
  Nat.mod_eq_of_lt (width ▸ fieldAt_lt w lo len)

/-- The flag read from bit 0 is the bit (R48). -/
theorem toNat_flag (w : CommandWord) : (fieldAt w 0 1 == 1).toNat = fieldAt w 0 1 := by
  have bit : fieldAt w 0 1 < 2 := fieldAt_lt w 0 1
  interval_cases fieldAt w 0 1 <;> rfl

/-- R51 (c): the address read from a field is legal unless the field holds 24..31. -/
theorem legal_finAt_iff (w : CommandWord) (lo : Nat) :
    LaneAddr.legal (finAt 32 w lo 5) = true ↔ ¬ 24 ≤ (w.extractLsb' lo 5).toNat := by
  rw [toNat_extractLsb'_eq_fieldAt, LaneAddr.legal, val_finAt (n := 32) (len := 5) rfl, decide_eq_true_eq, Nat.not_le]

/-- R51 (d): the round number read is below 12 unless the field holds 12 or more. -/
theorem round_finAt_lt_iff (w : CommandWord) :
    (finAt 16 w 0 4).val < 12 ↔ ¬ 12 ≤ (w.extractLsb' 0 4).toNat := by
  rw [toNat_extractLsb'_eq_fieldAt, val_finAt (n := 16) (len := 4) rfl, Nat.not_le]

/-! ### A word is put together again from its fields (R46 to R48) -/

theorem formatR_of_fields (z3 : fieldAt w 0 3 = 0) :
    formatR (opcodeOf w) (rdOf w) (rs1Of w) (rs2Of w) (fieldAt w 9 4) (fieldAt w 3 6) = w := by
  have bound := w.isLt
  apply BitVec.eq_of_toNat_eq
  simp only [formatR, opcodeOf, rdOf, rs1Of, rs2Of, val_finAt (n := 32) (len := 5) rfl, fieldAt,
    BitVec.toNat_ofNat] at z3 ⊢
  omega

/-- The word of XOR and ADD, which have neither mx nor amt. -/
theorem formatR_of_zero_tail (z : fieldAt w 0 13 = 0) :
    formatR (opcodeOf w) (rdOf w) (rs1Of w) (rs2Of w) 0 0 = w := by
  have tail : fieldAt w 0 13 = fieldAt w 0 3 + 2 ^ 3 * fieldAt w 3 10 := fieldAt_add w 0 3 10
  have fields : fieldAt w 3 10 = fieldAt w 3 6 + 2 ^ 6 * fieldAt w 9 4 := fieldAt_add w 3 6 4
  have word := formatR_of_fields (w := w) (by omega)
  rwa [show fieldAt w 9 4 = 0 by omega, show fieldAt w 3 6 = 0 by omega] at word

/-- The word of ADDM, which has no amt. -/
theorem formatR_of_zero_amount (z : fieldAt w 0 9 = 0) :
    formatR (opcodeOf w) (rdOf w) (rs1Of w) (rs2Of w) (finAt 16 w 9 4).val 0 = w := by
  have tail : fieldAt w 0 9 = fieldAt w 0 3 + 2 ^ 3 * fieldAt w 3 6 := fieldAt_add w 0 3 6
  have word := formatR_of_fields (w := w) (by omega)
  rwa [← val_finAt rfl, show fieldAt w 3 6 = 0 by omega] at word

/-- The word of ROTR, which has neither rs2 nor mx. -/
theorem formatR_of_zero_middle (z3 : fieldAt w 0 3 = 0) (z9 : fieldAt w 9 9 = 0) :
    formatR (opcodeOf w) (rdOf w) (rs1Of w) 0 0 (finAt 64 w 3 6).val = w := by
  have middle : fieldAt w 9 9 = fieldAt w 9 4 + 2 ^ 4 * fieldAt w 13 5 := fieldAt_add w 9 4 5
  have rs2 : rs2Of w = 0 := Fin.ext ((val_finAt rfl w 13).trans (by omega))
  have word := formatR_of_fields z3
  rwa [← val_finAt (n := 64) rfl w 3, show fieldAt w 9 4 = 0 by omega, rs2] at word

theorem formatG_of_fields (op : opcodeOf w = 5) (z4 : fieldAt w 0 4 = 0) :
    encode (.g (finAt 16 w 24 4) (finAt 16 w 20 4) (finAt 16 w 16 4) (finAt 16 w 12 4) (finAt 16 w 8 4)
      (finAt 16 w 4 4)) = w := by
  have bound := w.isLt
  apply BitVec.eq_of_toNat_eq
  simp only [encode, opcodeOf, val_finAt (n := 16) (len := 4) rfl, fieldAt, BitVec.toNat_ofNat] at op z4 ⊢
  omega

theorem formatS_of_fields (w : CommandWord) : formatS (opcodeOf w) (fieldAt w 0 28) = w := by
  have bound := w.isLt
  apply BitVec.eq_of_toNat_eq
  simp only [formatS, opcodeOf, fieldAt, BitVec.toNat_ofNat]
  omega

/-- The word of a command whose immediate is its low `len` bits. -/
theorem formatS_of_zero_above {len : Nat} (le : len ≤ 28) (z : fieldAt w len (28 - len) = 0) :
    formatS (opcodeOf w) (fieldAt w 0 len) = w := by
  have imm := fieldAt_add w 0 len (28 - len)
  rw [Nat.add_sub_cancel' le, Nat.zero_add, z, Nat.mul_zero, Nat.add_zero] at imm
  rw [← imm, formatS_of_fields]

/-- The word of a command without an immediate. -/
theorem formatS_of_zero (z : fieldAt w 0 28 = 0) : formatS (opcodeOf w) 0 = w :=
  z ▸ formatS_of_fields w

/-! ### What each row reads from a word (R50, R51) -/

/-- The decoder reads the word as the command, where `zeros` says that its must-be-zero fields are zero: the word is
then the command's own, and R51 leaves it legal exactly when, besides, the command's operands are. -/
structure ReadsAs (w : CommandWord) (zeros : Bool) (i : Instr) : Prop where
  decodes : decode w = checked zeros i
  encodes : zeros = true → encode i = w
  legal : ¬ IllegalWord w ↔ zeros = true ∧ i.wellFormed = true

theorem opcode_slice_eq_iff {n : Nat} (op : opcodeOf w = n) (c : BitVec 4) :
    w.extractLsb' 28 4 = c ↔ n = c.toNat := by
  rw [extractLsb'_eq_iff_fieldAt, ← op, opcodeOf]

theorem readsAs_xor (op : opcodeOf w = 1) :
    ReadsAs w (fieldAt w 0 13 == 0) (.xor (rdOf w) (rs1Of w) (rs2Of w)) where
  decodes := by simp only [decode, op]
  encodes z := by rw [encode, ← op, formatR_of_zero_tail (beq_iff_eq.1 z)]
  legal := by
    simp [IllegalWord, opcode_slice_eq_iff op, extractLsb'_eq_iff_fieldAt w 0, Instr.wellFormed, Instr.illegal?,
      rdOf, rs1Of, rs2Of, legal_finAt_iff, and_assoc, -BitVec.extractLsb'_toNat]

theorem readsAs_add (op : opcodeOf w = 2) :
    ReadsAs w (fieldAt w 0 13 == 0) (.add (rdOf w) (rs1Of w) (rs2Of w)) where
  decodes := by simp only [decode, op]
  encodes z := by rw [encode, ← op, formatR_of_zero_tail (beq_iff_eq.1 z)]
  legal := by
    simp [IllegalWord, opcode_slice_eq_iff op, extractLsb'_eq_iff_fieldAt w 0, Instr.wellFormed, Instr.illegal?,
      rdOf, rs1Of, rs2Of, legal_finAt_iff, and_assoc, -BitVec.extractLsb'_toNat]

theorem readsAs_addm (op : opcodeOf w = 3) :
    ReadsAs w (fieldAt w 0 9 == 0) (.addm (rdOf w) (rs1Of w) (rs2Of w) (finAt 16 w 9 4)) where
  decodes := by simp only [decode, op]
  encodes z := by rw [encode, ← op, formatR_of_zero_amount (beq_iff_eq.1 z)]
  legal := by
    simp [IllegalWord, opcode_slice_eq_iff op, extractLsb'_eq_iff_fieldAt w 0, Instr.wellFormed, Instr.illegal?,
      rdOf, rs1Of, rs2Of, legal_finAt_iff, and_assoc, -BitVec.extractLsb'_toNat]

theorem readsAs_rotr (op : opcodeOf w = 4) :
    ReadsAs w (fieldAt w 0 3 == 0 && fieldAt w 9 9 == 0) (.rotr (rdOf w) (rs1Of w) (finAt 64 w 3 6)) where
  decodes := by simp only [decode, op]
  encodes z := by
    obtain ⟨z3, z9⟩ := (Bool.and_eq_true ..).mp z
    rw [encode, ← op, formatR_of_zero_middle (beq_iff_eq.1 z3) (beq_iff_eq.1 z9)]
  legal := by
    simp [IllegalWord, opcode_slice_eq_iff op, extractLsb'_eq_iff_fieldAt w 0, extractLsb'_eq_iff_fieldAt w 9,
      Instr.wellFormed, Instr.illegal?, rdOf, rs1Of, legal_finAt_iff, and_assoc, -BitVec.extractLsb'_toNat]

theorem readsAs_g (op : opcodeOf w = 5) :
    ReadsAs w (fieldAt w 0 4 == 0) (.g (finAt 16 w 24 4) (finAt 16 w 20 4) (finAt 16 w 16 4) (finAt 16 w 12 4)
      (finAt 16 w 8 4) (finAt 16 w 4 4)) where
  decodes := by simp only [decode, op]
  encodes z := formatG_of_fields op (beq_iff_eq.1 z)
  legal := by
    simp [IllegalWord, opcode_slice_eq_iff op, extractLsb'_eq_iff_fieldAt w 0, Instr.wellFormed, Instr.illegal?]

theorem readsAs_round (op : opcodeOf w = 6) : ReadsAs w (fieldAt w 4 24 == 0) (.round (finAt 16 w 0 4)) where
  decodes := by simp only [decode, op]
  encodes z := by
    rw [encode, ← op, val_finAt (n := 16) (len := 4) rfl,
      formatS_of_zero_above (len := 4) (by decide) (beq_iff_eq.1 z)]
  legal := by
    simp [IllegalWord, opcode_slice_eq_iff op, extractLsb'_eq_iff_fieldAt w 4, Instr.wellFormed, Instr.illegal?,
      round_finAt_lt_iff, -BitVec.extractLsb'_toNat]

theorem readsAs_init (op : opcodeOf w = 7) : ReadsAs w (fieldAt w 0 28 == 0) .init where
  decodes := by simp only [decode, op]
  encodes z := by rw [encode, ← op, formatS_of_zero (beq_iff_eq.1 z)]
  legal := by
    simp [IllegalWord, opcode_slice_eq_iff op, extractLsb'_eq_iff_fieldAt w 0, Instr.wellFormed, Instr.illegal?]

theorem readsAs_ldchunk (op : opcodeOf w = 8) : ReadsAs w true (.ldchunk (finAt 268435456 w 0 28)) where
  decodes := by simp only [decode, op]
  encodes _ := by rw [encode, ← op, val_finAt (n := 268435456) (len := 28) rfl, formatS_of_fields]
  legal := by simp [IllegalWord, opcode_slice_eq_iff op, Instr.wellFormed, Instr.illegal?]

theorem readsAs_seed (op : opcodeOf w = 9) : ReadsAs w (fieldAt w 1 27 == 0) (.seed (fieldAt w 0 1 == 1)) where
  decodes := by simp only [decode, op]
  encodes z := by
    rw [encode, ← op, toNat_flag, formatS_of_zero_above (len := 1) (by decide) (beq_iff_eq.1 z)]
  legal := by
    simp [IllegalWord, opcode_slice_eq_iff op, extractLsb'_eq_iff_fieldAt w 1, Instr.wellFormed, Instr.illegal?]

theorem readsAs_feed (op : opcodeOf w = 10) : ReadsAs w (fieldAt w 0 28 == 0) .feed where
  decodes := by simp only [decode, op]
  encodes z := by rw [encode, ← op, formatS_of_zero (beq_iff_eq.1 z)]
  legal := by
    simp [IllegalWord, opcode_slice_eq_iff op, extractLsb'_eq_iff_fieldAt w 0, Instr.wellFormed, Instr.illegal?]

theorem readsAs_compress (op : opcodeOf w = 11) :
    ReadsAs w (fieldAt w 1 27 == 0) (.compress (fieldAt w 0 1 == 1)) where
  decodes := by simp only [decode, op]
  encodes z := by
    rw [encode, ← op, toNat_flag, formatS_of_zero_above (len := 1) (by decide) (beq_iff_eq.1 z)]
  legal := by
    simp [IllegalWord, opcode_slice_eq_iff op, extractLsb'_eq_iff_fieldAt w 1, Instr.wellFormed, Instr.illegal?]

theorem readsAs_stdig (op : opcodeOf w = 12) : ReadsAs w (fieldAt w 0 28 == 0) .stdig where
  decodes := by simp only [decode, op]
  encodes z := by rw [encode, ← op, formatS_of_zero (beq_iff_eq.1 z)]
  legal := by
    simp [IllegalWord, opcode_slice_eq_iff op, extractLsb'_eq_iff_fieldAt w 0, Instr.wellFormed, Instr.illegal?]

/-- R51 (a). -/
theorem illegalWord_of_unused (op : opcodeOf w = 0 ∨ 13 ≤ opcodeOf w) : IllegalWord w := by
  have lt : opcodeOf w < 16 := fieldAt_lt w 28 4
  refine .inl ?_
  simp only [opcode_slice_eq_iff rfl]
  show opcodeOf w = 0 ∨ opcodeOf w = 13 ∨ opcodeOf w = 14 ∨ opcodeOf w = 15
  omega

/-- Every word has an unused opcode, or one of the twelve rows reads it. -/
theorem unused_or_readsAs (w : CommandWord) :
    (decode w = .illegal .unusedOpcode ∧ IllegalWord w) ∨ ∃ zeros i, ReadsAs w zeros i := by
  have lt : opcodeOf w < 16 := fieldAt_lt w 28 4
  interval_cases op : opcodeOf w
  · exact .inl ⟨by simp only [decode, op], illegalWord_of_unused (.inl op)⟩
  · exact .inr ⟨_, _, readsAs_xor op⟩
  · exact .inr ⟨_, _, readsAs_add op⟩
  · exact .inr ⟨_, _, readsAs_addm op⟩
  · exact .inr ⟨_, _, readsAs_rotr op⟩
  · exact .inr ⟨_, _, readsAs_g op⟩
  · exact .inr ⟨_, _, readsAs_round op⟩
  · exact .inr ⟨_, _, readsAs_init op⟩
  · exact .inr ⟨_, _, readsAs_ldchunk op⟩
  · exact .inr ⟨_, _, readsAs_seed op⟩
  · exact .inr ⟨_, _, readsAs_feed op⟩
  · exact .inr ⟨_, _, readsAs_compress op⟩
  · exact .inr ⟨_, _, readsAs_stdig op⟩
  · exact .inl ⟨by simp only [decode, op], illegalWord_of_unused (.inr (by omega))⟩
  · exact .inl ⟨by simp only [decode, op], illegalWord_of_unused (.inr (by omega))⟩
  · exact .inl ⟨by simp only [decode, op], illegalWord_of_unused (.inr (by omega))⟩

/-! ### Decoding is total (R54) -/

theorem checked_of_wellFormed {i : Instr} (wf : i.wellFormed = true) : checked true i = .command i := by
  simp only [checked, Option.isNone_iff_eq_none.1 wf, if_true]

theorem checked_illegal {zeros : Bool} {i : Instr} (ill : ¬ (zeros = true ∧ i.wellFormed = true)) :
    ∃ why, checked zeros i = .illegal why := by
  cases zeros with
  | false => exact ⟨_, rfl⟩
  | true =>
    cases e : i.illegal? with
    | none => exact absurd ⟨rfl, Option.isNone_iff_eq_none.2 e⟩ ill
    | some why => exact ⟨why, by simp only [checked, e, if_true]⟩

/-- A legal word decodes to a command, legal too, whose word it is. -/
theorem decode_of_not_illegalWord (legal : ¬ IllegalWord w) :
    ∃ i, decode w = .command i ∧ encode i = w ∧ i.wellFormed = true := by
  rcases unused_or_readsAs w with ⟨_, ill⟩ | ⟨zeros, i, reads⟩
  · exact absurd ill legal
  · obtain ⟨rfl, wf⟩ := reads.legal.1 legal
    exact ⟨i, reads.decodes.trans (checked_of_wellFormed wf), reads.encodes rfl, wf⟩

/-- The decoder rejects every word that R51 makes illegal. -/
theorem decode_of_illegalWord (ill : IllegalWord w) : ∃ why, decode w = .illegal why := by
  rcases unused_or_readsAs w with ⟨unused, _⟩ | ⟨zeros, i, reads⟩
  · exact ⟨_, unused⟩
  · rw [reads.decodes]
    exact checked_illegal fun operands => reads.legal.2 operands ill

/-! ### The match/mask rows are disjoint (R54) -/

/-- A row selects only words of its own opcode. -/
theorem opcode_of_selects {row : OpcodeRow} (mem : row ∈ opcodeRows) (sel : row.selects w = true) :
    w.extractLsb' 28 4 = row.matchBits.extractLsb' 28 4 := by
  have mask : ∀ row ∈ opcodeRows, row.mask.extractLsb' 28 4 = BitVec.allOnes 4 := by decide
  rw [← beq_iff_eq.1 sel, BitVec.extractLsb'_and, mask row mem, BitVec.and_allOnes]

theorem opcodeRows_disjoint :
    opcodeRows.Pairwise fun row row' => ∀ w, ¬ (row.selects w = true ∧ row'.selects w = true) := by
  have opcodes : opcodeRows.Pairwise fun row row' =>
      row.matchBits.extractLsb' 28 4 ≠ row'.matchBits.extractLsb' 28 4 := by decide
  exact opcodes.imp_of_mem fun mem mem' ne _ ⟨sel, sel'⟩ =>
    ne ((opcode_of_selects mem sel).symm.trans (opcode_of_selects mem' sel'))

/-- Settles O5: a legal word decodes to one command, which encodes to it; an illegal one is rejected; and the rows
differ in their opcodes. -/
theorem decodingIsTotalAndUnambiguous : Obligations.DecodingIsTotalAndUnambiguous := by
  refine ⟨fun w => ?_, opcodeRows_disjoint⟩
  by_cases ill : IllegalWord w
  · obtain ⟨why, e⟩ := decode_of_illegalWord ill
    exact .inr ⟨fun i e' => (nomatch e.symm.trans e'), ill⟩
  · obtain ⟨i, e, word, _⟩ := decode_of_not_illegalWord ill
    exact .inl ⟨⟨i, e, word, fun j e' => Decoded.command.inj (e'.symm.trans e)⟩, ill⟩

/-! ### Executing an illegal command (R51, 60_exceptions.md R110) -/

/-- ILLEGAL_COMMAND, raised where no fault stands, sets FAULT to 1 and writes nothing else. -/
theorem raise_illegalCommand {s : State} (unfaulted : s.fault = 0) :
    raise .illegalCommand s = .next { s with fault := 1 } := by
  rw [raise, State.enterFault, if_pos unfaulted]; rfl

theorem runWord_of_illegalWord {s : State} (ill : IllegalWord w) : runWord s w = raise .illegalCommand s := by
  obtain ⟨why, e⟩ := decode_of_illegalWord ill
  simp only [runWord, e]

/-- A command whose operands make it illegal raises ILLEGAL_COMMAND, before its operands are read. -/
theorem exec_of_not_wellFormed {i : Instr} {s : State} (ill : i.wellFormed = false) :
    exec i s = raise .illegalCommand s := by
  cases exec_cases i s with
  | illegal _ eq => exact eq
  | unwritten wf | range wf | completes wf => rw [ill] at wf; cases wf

/-- Settles O9: the decoder rejects R51's words and no others, a rejected word raises ILLEGAL_COMMAND, and so does a
command with illegal operands. -/
theorem illegalCommandsRaise : Obligations.IllegalCommandsRaise := by
  refine ⟨fun s words w hr hf hb hs hw ill => ?_, fun w legal => ?_, illegalWord_of_unused (.inl rfl),
    fun i s ill hf => ?_⟩
  · rw [step_eq_runWord hr hf hb hs hw, runWord_of_illegalWord ill, raise_illegalCommand hf]
  · obtain ⟨i, e, _, wf⟩ := decode_of_not_illegalWord legal
    exact ⟨i, e, wf⟩
  · rw [exec_of_not_wellFormed ill, raise_illegalCommand hf]

end Sys2Proof.Machine
end

section
/-! PROOFS. Which assignments satisfy the constraints of explode, pack, trim and the XOR bit
(40_lane_arithmetic.md R60 to R65). -/

namespace Sys2Proof.Machine

variable {p n k x y : Nat} {assign : Nat → Int} {bits : List Wire} {b w : Wire}

/-! ### Wires that carry bits, and their pack (R61) -/

/-- The wires carry the bits of `x`, the first wire bit 0; `LaneRep.Means` says this of a lane's exploded bits. -/
def HoldBits (p : Nat) (assign : Nat → Int) (bits : List Wire) (x : Nat) : Prop :=
  ∀ (i : Nat) (b : Wire), bits[i]? = some b → b.value p assign = (x.testBit i).toNat

theorem holdBits_nil : HoldBits p assign [] x := fun _ _ e => by cases e

theorem holdBits_cons : HoldBits p assign (b :: bits) x ↔
    b.value p assign = (x.testBit 0).toNat ∧ HoldBits p assign bits (x / 2) := by
  constructor
  · exact fun h => ⟨h 0 b rfl, fun i c e => by rw [← Nat.testBit_succ]; exact h (i + 1) c e⟩
  · rintro ⟨head, tail⟩ (_ | i) c e
    · cases e; exact head
    · rw [Nat.testBit_succ]; exact tail i c e

theorem HoldBits.take (h : HoldBits p assign bits x) (k : Nat) : HoldBits p assign (bits.take k) (x % 2 ^ k) := by
  intro i b e
  have lt : i < k := by_contra fun ge => by simp [ge] at e
  rw [List.getElem?_take_of_lt lt] at e
  rw [h i b e, Nat.testBit_mod_two_pow, decide_eq_true lt, Bool.true_and]

theorem HoldBits.drop (h : HoldBits p assign bits x) (k : Nat) : HoldBits p assign (bits.drop k) (x / 2 ^ k) := by
  intro i b e
  rw [List.getElem?_drop] at e
  rw [h (k + i) b e, Nat.testBit_div_two_pow, Nat.add_comm]

/-- A wire with a value below the prime is known by its residue. -/
theorem value_eq_iff (lt : x < p) : w.value p assign = x ↔ w.eval assign ≡ x [ZMOD p] := by
  rw [Int.ModEq, Int.emod_eq_of_lt (Int.natCast_nonneg x) (Int.ofNat_lt.2 lt), Wire.value]

/-- `pack` puts the bits together again. -/
theorem HoldBits.eval_pack (one : 1 < p) : ∀ {bits : List Wire} {x : Nat}, HoldBits p assign bits x →
    (pack bits).eval assign ≡ (x % 2 ^ bits.length : Nat) [ZMOD p]
  | [], x, _ => by simp [Nat.mod_one]
  | b :: bits, x, h => by
    obtain ⟨head, tail⟩ := holdBits_cons.1 h
    have bit : (x.testBit 0).toNat < p := (Bool.toNat_lt _).trans_le one
    have split : x % 2 ^ (bits.length + 1) = (x.testBit 0).toNat + 2 * (x / 2 % 2 ^ bits.length) := by
      rw [pow_succ', Nat.mod_mul, Nat.toNat_testBit, pow_zero, Nat.div_one]
    rw [List.length_cons, split, eval_pack_cons]
    push_cast
    exact ((value_eq_iff bit).1 head).add ((tail.eval_pack one).mul_left 2)

theorem HoldBits.value_pack (h : HoldBits p assign bits x) (one : 1 < p) (fits : 2 ^ bits.length ≤ p) :
    (pack bits).value p assign = (x % 2 ^ bits.length : Nat) :=
  (value_eq_iff ((Nat.mod_lt x (Nat.two_pow_pos _)).trans_le fits)).2 (h.eval_pack one)

/-- A lane of 64 bits meets the lane invariant (R62). -/
theorem HoldBits.means_ofBits {x : Word64} (h : HoldBits p assign bits x.toNat) (width : bits.length = 64)
    (big : 2 ^ 64 ≤ p) : (LaneRep.ofBits bits).Means p assign x := by
  refine ⟨?_, fun _ e => ?_⟩
  · have packed := h.value_pack (Nat.lt_of_lt_of_le (by norm_num) big) (by rwa [width])
    rwa [width, Nat.mod_eq_of_lt x.isLt] at packed
  · cases e
    exact ⟨width, h⟩

theorem value_nonneg (w : Wire) (assign : Nat → Int) (pos : 0 < p) : 0 ≤ w.value p assign :=
  Int.emod_nonneg _ (Int.natCast_ne_zero.2 pos.ne')

/-! ### explode (R60) -/

theorem holds_booleanity_iff (prime : p.Prime) :
    (Constraint.booleanity b).Holds p assign ↔ ∃ c : Bool, b.value p assign = c.toNat := by
  have value (c : Bool) : b.value p assign = c.toNat ↔ (p : Int) ∣ b.eval assign - c.toNat := by
    rw [value_eq_iff ((Bool.toNat_lt c).trans_le prime.two_le), Int.modEq_comm, Int.modEq_iff_dvd]
  rw [Bool.exists_bool, value, value, ← (Nat.prime_iff_prime_int.1 prime).dvd_mul]
  simp

/-- Boolean wires carry the bits of some number. -/
theorem exists_holdBits : ∀ {bits : List Wire}, (∀ b ∈ bits, ∃ c : Bool, b.value p assign = c.toNat) →
    ∃ x : Nat, x < 2 ^ bits.length ∧ HoldBits p assign bits x
  | [], _ => ⟨0, Nat.one_pos, holdBits_nil⟩
  | b :: bits, h => by
    obtain ⟨⟨c, head⟩, rest⟩ := List.forall_mem_cons.1 h
    obtain ⟨x, lt, tail⟩ := exists_holdBits rest
    refine ⟨Nat.bit c x, Nat.bit_lt_two_pow_succ_iff.2 lt, holdBits_cons.2 ⟨?_, ?_⟩⟩
    · rw [Nat.testBit_bit_zero, head]
    · rwa [Nat.bit_div_two]

/-- The constraints of explode say that the wires carry the bits of the exploded wire's value, which fits in them. -/
theorem satisfies_explodeConstraints_iff (prime : p.Prime) (fits : 2 ^ bits.length ≤ p) :
    Satisfies p assign (explodeConstraints bits w) ↔
      ∃ x : Nat, x < 2 ^ bits.length ∧ w.value p assign = x ∧ HoldBits p assign bits x := by
  have linear {x : Nat} (lt : x < 2 ^ bits.length) (h : HoldBits p assign bits x) :
      (Constraint.linear (pack bits) w).Holds p assign ↔ w.value p assign = x := by
    have packed := h.value_pack prime.one_lt fits
    rw [Nat.mod_eq_of_lt lt] at packed
    rw [Constraint.Holds, ← Int.modEq_iff_dvd, ← packed]
    rfl
  rw [explodeConstraints, satisfies_append]
  constructor
  · rintro ⟨booleans, sum⟩
    obtain ⟨x, lt, h⟩ := exists_holdBits fun b hb =>
      (holds_booleanity_iff prime).1 (booleans _ (List.mem_map_of_mem hb))
    exact ⟨x, lt, (linear lt h).1 (sum _ (List.mem_singleton_self _)), h⟩
  · rintro ⟨x, lt, value, h⟩
    refine ⟨fun c hc => ?_, fun c hc => ?_⟩
    · obtain ⟨b, hb, rfl⟩ := List.mem_map.1 hc
      obtain ⟨i, e⟩ := List.mem_iff_getElem?.1 hb
      exact (holds_booleanity_iff prime).2 ⟨_, h i b e⟩
    · rw [List.mem_singleton.1 hc]
      exact (linear lt h).2 value

/-- The same where the exploded wire's value is known. -/
theorem satisfies_explodeConstraints_iff_of_value (prime : p.Prime) (fits : 2 ^ bits.length ≤ p)
    (value : w.value p assign = x) :
    Satisfies p assign (explodeConstraints bits w) ↔ x < 2 ^ bits.length ∧ HoldBits p assign bits x := by
  rw [satisfies_explodeConstraints_iff prime fits]
  constructor
  · rintro ⟨x', lt, value', h⟩
    obtain rfl : x = x' := Int.ofNat_inj.1 (value.symm.trans value')
    exact ⟨lt, h⟩
  · exact fun ⟨lt, h⟩ => ⟨x, lt, value, h⟩

theorem newWires_eq_map (n start : Nat) : newWires n start = (List.range n).map fun i => Wire.ofId (start + i) := by
  refine List.ext_getElem? fun i => ?_
  by_cases lt : i < n
  · rw [getElem?_newWires n start i lt, List.getElem?_map, List.getElem?_range lt, Option.map_some]
  · rw [List.getElem?_eq_none (by simpa using lt), List.getElem?_eq_none (by simpa using lt)]

theorem holdBits_newWires {start : Nat} : HoldBits p assign (newWires n start) x ↔
    ∀ i < n, assign (start + i) % (p : Int) = (x.testBit i).toNat := by
  constructor
  · exact fun h i lt => h i _ (getElem?_newWires n start i lt)
  · intro h i b e
    have lt : i < n := by simpa using (List.getElem?_eq_some_iff.1 e).1
    rw [getElem?_newWires n start i lt] at e
    cases e
    exact h i lt

/-- The pack of new wires is `Σ b_i·2^i`. -/
theorem eval_pack_newWires : ∀ n start : Nat,
    (pack (newWires n start)).eval assign = ∑ i ∈ Finset.range n, assign (start + i) * 2 ^ i
  | 0, _ => rfl
  | n + 1, start => by
    rw [newWires, eval_pack_cons, eval_pack_newWires n (start + 1), Finset.sum_range_succ', Finset.mul_sum,
      Wire.eval_ofId, add_comm]
    congr 1
    · refine Finset.sum_congr rfl fun i _ => ?_
      rw [Nat.add_right_comm, Nat.add_assoc, pow_succ]
      ring
    · simp

/-! ### Assignments of the new wires -/

theorem Wire.Below.value_congr {assign' : Nat → Int} (below : w.Below n) (agree : AgreeBelow n assign assign') :
    w.value p assign' = w.value p assign := by
  rw [Wire.value, Wire.value, below.eval_congr agree]

/-- An assignment with the wires from `start` on replaced. -/
def extendAt (start : Nat) (assign values : Nat → Int) (i : Nat) : Int := if i < start then assign i else values i

theorem agreeBelow_extendAt (start : Nat) (assign values : Nat → Int) :
    AgreeBelow start assign (extendAt start assign values) := fun _ lt => if_pos lt

theorem extendAt_of_le {start i : Nat} (le : start ≤ i) (assign values : Nat → Int) :
    extendAt start assign values i = values i := if_neg (Nat.not_lt.2 le)

/-- A wire whose value fits in `n` bits can be exploded: the new wires take its bits. -/
theorem exists_satisfies_explode {start : Nat} (prime : p.Prime) (fits : 2 ^ n ≤ p) (below : w.Below start)
    (lt : x < 2 ^ n) (value : w.value p assign = x) :
    ∃ assign', AgreeBelow start assign assign' ∧ Satisfies p assign' (explodeConstraints (newWires n start) w) := by
  have agree := agreeBelow_extendAt start assign fun i => (x.testBit (i - start)).toNat
  refine ⟨_, agree, (satisfies_explodeConstraints_iff_of_value prime (by rwa [length_newWires])
    ((below.value_congr agree).trans value)).2 ⟨by rwa [length_newWires], holdBits_newWires.2 fun i _ => ?_⟩⟩
  rw [extendAt_of_le (Nat.le_add_right start i), Nat.add_sub_cancel_left]
  exact Int.emod_eq_of_lt (Int.natCast_nonneg _) (Int.ofNat_lt.2 ((Bool.toNat_lt _).trans_le prime.two_le))

/-! ### The XOR bit (R63) -/

theorem value_product_iff {c d : Bool} {x y : Wire} (one : 1 < p) (hx : x.value p assign = c.toNat)
    (hy : y.value p assign = d.toNat) :
    (Constraint.multiplication (Wire.ofId n) x y).Holds p assign ↔ assign n % (p : Int) = (c && d).toNat := by
  have bound (c : Bool) : c.toNat < p := (Bool.toNat_lt c).trans_le one
  have product : x.eval assign * y.eval assign ≡ ((c && d).toNat : Nat) [ZMOD p] := by
    have both : ((c && d).toNat : Int) = c.toNat * d.toNat := by cases c <;> cases d <;> rfl
    exact both ▸ ((value_eq_iff (bound c)).1 hx).mul ((value_eq_iff (bound d)).1 hy)
  rw [Constraint.Holds, ← Int.modEq_iff_dvd]
  exact ⟨fun h => (value_eq_iff (w := .ofId n) (bound _)).2 (h.symm.trans product),
    fun h => product.trans ((value_eq_iff (w := .ofId n) (bound _)).1 h).symm⟩

theorem value_xorBit {c d : Bool} {x y : Wire} (one : 1 < p) (hx : x.value p assign = c.toNat)
    (hy : y.value p assign = d.toNat) (hn : assign n % (p : Int) = (c && d).toNat) :
    (xorBit x y n).value p assign = (c ^^ d).toNat := by
  have residue {w : Wire} {c : Bool} (h : w.value p assign = c.toNat) : w.eval assign ≡ c.toNat [ZMOD p] :=
    (value_eq_iff ((Bool.toNat_lt c).trans_le one)).1 h
  have four : ((c ^^ d).toNat : Int) = c.toNat + d.toNat + -2 * (c && d).toNat := by
    cases c <;> cases d <;> rfl
  rw [value_eq_iff ((Bool.toNat_lt _).trans_le one), eval_xorBit, four]
  exact ((residue hx).add (residue hy)).add ((residue (w := .ofId n) hn).mul_left (-2))

end Sys2Proof.Machine
end

section
/-! PROOFS. The statements about explode, the XOR bit and trim (40_lane_arithmetic.md R60, R63 to R65). -/

namespace Sys2Proof.Machine

variable {p n x : Nat} {assign : Nat → Int} {bits : List Wire} {w : Wire} {ar : Arena}

/-- Settles O45: the constraints say that the new wires carry the bits of `w`, which its value below `2^n` determines. -/
theorem explodeHasOneWitness : Obligations.ExplodeHasOneWitness := by
  intro p n w ar assign prime fits below
  have satisfied (assign' : Nat → Int) (agree : AgreeBelow ar.nextWire assign assign') :
      Satisfies p assign' (explodeConstraints (newWires n ar.nextWire) w) ↔
        ∃ x : Nat, x < 2 ^ n ∧ w.value p assign = x ∧ HoldBits p assign' (newWires n ar.nextWire) x := by
    rw [satisfies_explodeConstraints_iff prime (by rwa [length_newWires]), length_newWires, below.value_congr agree]
  refine ⟨newWires_eq_map n _, rfl, rfl, fun _ => eval_pack_newWires n _, ⟨?_, fun lt => ?_⟩,
    fun assign' agree sat => ?_⟩
  · rintro ⟨assign', agree, sat⟩
    obtain ⟨x, lt, value, _⟩ := (satisfied assign' agree).1 sat
    rw [value]
    exact_mod_cast lt
  · have value := Int.toNat_of_nonneg (value_nonneg w assign prime.pos)
    exact exists_satisfies_explode prime fits below (by rw [← value] at lt; exact_mod_cast lt) value.symm
  · obtain ⟨x, _, value, h⟩ := (satisfied assign' agree).1 sat
    rw [value, Int.toNat_natCast]
    exact h

/-- Settles O46: the product wire is the conjunction, so the XOR bit is the exclusive or. -/
theorem fieldXorOfBits : Obligations.FieldXorOfBits := by
  intro p x y n assign c d two hx hy product
  have one : 1 < p := Nat.lt_of_succ_lt two
  refine ⟨?_, value_xorBit one hx hy ((value_product_iff one hx hy).1 product)⟩
  rw [eval_xorBit, Wire.eval_ofId]
  ring

/-! ### trim (R64, R65) -/

/-- The bits of a raw sum split into the lane a trim returns and its carry. -/
theorem means_trim (h : HoldBits p assign (newWires n ar.nextWire) x) (wide : 64 ≤ n) (big : 2 ^ 64 ≤ p) :
    (trim n w ar).1.Means p assign (trimLow x) :=
  HoldBits.means_ofBits (h.take 64) (by simpa using wide) big

theorem value_carry (h : HoldBits p assign bits x) (lt : x < 2 ^ bits.length) (wide : 64 ≤ bits.length)
    (one : 1 < p) (fits : 2 ^ bits.length ≤ p) : (pack (bits.drop 64)).value p assign = trimCarry x := by
  have split : 2 ^ bits.length = 2 ^ 64 * 2 ^ (bits.length - 64) := by rw [← pow_add, Nat.add_sub_cancel' wide]
  have packed := (h.drop 64).value_pack one (by
    rw [List.length_drop]
    exact (Nat.pow_le_pow_right (by norm_num) (Nat.sub_le _ _)).trans fits)
  rwa [List.length_drop, Nat.mod_eq_of_lt (Nat.div_lt_of_lt_mul (split ▸ lt))] at packed

theorem trimLow_add_trimCarry (s : Nat) : (trimLow s).toNat + trimCarry s * 2 ^ 64 = s := by
  rw [trimLow, BitVec.toNat_ofNat, trimCarry, Nat.mul_comm, Nat.mod_add_div]

/-- Settles O47: the new wires carry the bits of the raw sum, the low 64 of them the lane and the others the carry. -/
theorem trimSoundness : Obligations.TrimSoundness := by
  intro p n w ar assign prime large width below lt
  have wide : 64 ≤ n := by omega
  have fits : 2 ^ n ≤ p := (Nat.pow_le_pow_right (by norm_num) (by omega : n ≤ 66)).trans large.le
  have value := Int.toNat_of_nonneg (value_nonneg w assign prime.pos)
  generalize (w.value p assign).toNat = s at value
  have small : s < 2 ^ n := by rw [← value] at lt; exact_mod_cast lt
  refine ⟨rfl, rfl, rfl, exists_satisfies_explode prime fits below small value.symm, fun assign' agree sat => ?_⟩
  obtain ⟨_, h⟩ := (satisfies_explodeConstraints_iff_of_value prime (by simpa using fits)
    ((below.value_congr agree).trans value.symm)).1 sat
  exact ⟨means_trim h wide ((Nat.pow_le_pow_right (by norm_num) wide).trans fits),
    value_carry h (by simpa using small) (by simpa using wide) prime.one_lt (by simpa using fits),
    trimLow_add_trimCarry s⟩

theorem rawSum2_le (a b : Word64) : rawSum2 a b ≤ 2 ^ 65 - 2 := by
  have := a.isLt
  have := b.isLt
  rw [rawSum2]
  omega

theorem rawSum3_le (a b c : Word64) : rawSum3 a b c ≤ 2 ^ 66 - 3 := by
  have := a.isLt
  have := b.isLt
  have := c.isLt
  rw [rawSum3]
  omega

/-- Settles O48: the largest lanes reach the top bit of each width, and a value that does not fit in the bits exploded
leaves their constraints without a solution. -/
theorem trimWidthsAreMinimal : Obligations.TrimWidthsAreMinimal := by
  refine ⟨rawSum2_le, rawSum3_le, ⟨.allOnes 64, .allOnes 64, by decide⟩,
    ⟨.allOnes 64, .allOnes 64, .allOnes 64, by decide⟩, fun _ _ _ => rfl, fun _ _ _ _ => rfl, ?_⟩
  rintro p n w ar assign prime large width below tooLarge ⟨assign', agree, sat⟩
  have fits : 2 ^ n ≤ p := (Nat.pow_le_pow_right (by norm_num) (by omega : n ≤ 66)).trans large.le
  obtain ⟨x, lt, value, _⟩ := (satisfies_explodeConstraints_iff prime (by simpa using fits)).1 sat
  rw [explode_bits, length_newWires] at lt
  rw [← below.value_congr agree, value] at tooLarge
  exact absurd lt (Nat.not_lt.2 (by exact_mod_cast tooLarge))

end Sys2Proof.Machine
end

section
/-! PROOFS. Circuits as triples (40_lane_arithmetic.md R73): what a fragment of a circuit forces on its new wires, how
fragments compose, and the fragments of XOR, ADD, ADDM and ROTR. -/

namespace Sys2Proof.Machine

variable {p n k x y : Nat} {assign assign' : Nat → Int} {bits xs ys : List Wire} {w : Wire}
  {ar ar₁ ar₂ : Arena} {pre mid post other : (Nat → Int) → Prop}

/-! ### Triples -/

/-- The circuit between two arenas: of every assignment that meets `pre` the appended constraints ask that the new wires
have certain values of the field, which do not depend on the assignment; and then the assignment meets `post`. -/
def Forces (p : Nat) (pre : (Nat → Int) → Prop) (ar ar' : Arena) (post : (Nat → Int) → Prop) : Prop :=
  ar.nextWire ≤ ar'.nextWire ∧ ∃ (new : List Constraint) (values : Nat → Int), ar'.record = ar.record ++ new ∧
    ∀ assign, pre assign →
      (Satisfies p assign new ↔
        ∀ i, ar.nextWire ≤ i → i < ar'.nextWire → assign i % (p : Int) = values i % (p : Int)) ∧
      (Satisfies p assign new → post assign)

/-- A circuit that appends nothing. -/
theorem Forces.refl (h : ∀ assign, pre assign → post assign) : Forces p pre ar ar post :=
  ⟨le_rfl, [], fun _ => 0, (List.append_nil _).symm, fun assign hp =>
    ⟨⟨fun _ _ le lt => absurd lt (Nat.not_lt.2 le), fun _ _ hc => by cases hc⟩, fun _ => h assign hp⟩⟩

theorem Forces.trans (h₁ : Forces p pre ar ar₁ mid) (h₂ : Forces p mid ar₁ ar₂ post) : Forces p pre ar ar₂ post := by
  obtain ⟨le₁, new₁, values₁, record₁, forced₁⟩ := h₁
  obtain ⟨le₂, new₂, values₂, record₂, forced₂⟩ := h₂
  refine ⟨le₁.trans le₂, new₁ ++ new₂, extendAt ar₁.nextWire values₁ values₂,
    by rw [record₂, record₁, List.append_assoc], fun assign hp => ?_⟩
  obtain ⟨iff₁, hm⟩ := forced₁ assign hp
  rw [satisfies_append]
  refine ⟨⟨fun ⟨sat₁, sat₂⟩ i le lt => ?_, fun all => ?_⟩, fun ⟨sat₁, sat₂⟩ => (forced₂ assign (hm sat₁)).2 sat₂⟩
  · rw [extendAt]
    split
    next old => exact iff₁.1 sat₁ i le old
    next fresh => exact (forced₂ assign (hm sat₁)).1.1 sat₂ i (Nat.not_lt.1 fresh) lt
  · have sat₁ : Satisfies p assign new₁ := iff₁.2 fun i le lt =>
      (all i le (lt.trans_le le₂)).trans (by rw [extendAt, if_pos lt])
    exact ⟨sat₁, (forced₂ assign (hm sat₁)).1.2 fun i le lt =>
      (all i (le₁.trans le) lt).trans (by rw [extendAt_of_le le])⟩

/-- What `pre` says beside the circuit's own need still holds after it: it speaks of the same assignment. -/
theorem Forces.frame (h : Forces p pre ar ar₁ post) :
    Forces p (fun a => pre a ∧ other a) ar ar₁ fun a => post a ∧ other a := by
  obtain ⟨le, new, values, record, forced⟩ := h
  exact ⟨le, new, values, record, fun assign hp =>
    ⟨(forced assign hp.1).1, fun sat => ⟨(forced assign hp.1).2 sat, hp.2⟩⟩⟩

theorem Forces.mono {pre' post' : (Nat → Int) → Prop} (h : Forces p pre ar ar₁ post)
    (hpre : ∀ a, pre' a → pre a) (hpost : ∀ a, post a → post' a) : Forces p pre' ar ar₁ post' := by
  obtain ⟨le, new, values, record, forced⟩ := h
  exact ⟨le, new, values, record, fun assign hp =>
    ⟨(forced assign (hpre _ hp)).1, fun sat => hpost _ ((forced assign (hpre _ hp)).2 sat)⟩⟩

/-- Constraints that hold exactly when the `k` new wires carry certain bits. -/
theorem Forces.emit {cs : List Constraint} (one : 1 < p) (bit : Nat → Bool)
    (solved : ∀ a, pre a →
      (Satisfies p a cs ↔ ∀ i < k, a (ar.nextWire + i) % (p : Int) = (bit i).toNat))
    (hpost : ∀ a, pre a → (∀ i < k, a (ar.nextWire + i) % (p : Int) = (bit i).toNat) → post a) :
    Forces p pre ar (ar.emit k cs) post := by
  refine ⟨Nat.le_add_right _ k, cs, fun i => (bit (i - ar.nextWire)).toNat, rfl, fun a hp =>
    ⟨(solved a hp).trans ?_, fun sat => hpost a hp ((solved a hp).1 sat)⟩⟩
  have residue (c : Bool) : (c.toNat : Int) % p = c.toNat :=
    Int.emod_eq_of_lt (Int.natCast_nonneg _) (Int.ofNat_lt.2 ((Bool.toNat_lt c).trans_le one))
  simp only [residue]
  constructor
  · intro h i le lt
    obtain ⟨j, rfl⟩ := Nat.exists_eq_add_of_le le
    rw [Nat.add_sub_cancel_left]
    exact h j (Nat.lt_of_add_lt_add_left lt)
  · intro h i lt
    rw [h _ (Nat.le_add_right _ i) (Nat.add_lt_add_left lt _), Nat.add_sub_cancel_left]

/-- A triple whose `pre` the assignment of the old wires gives: the result is computed, uniquely. -/
theorem Forces.uniquelyComputes {r : LaneRep × Arena} {x : Word64}
    (h : Forces p pre ar r.2 fun a => r.1.Means p a x) (known : ∀ a, AgreeBelow ar.nextWire assign a → pre a) :
    UniquelyComputes p assign ar r x := by
  obtain ⟨le, new, values, record, forced⟩ := h.mono known fun _ means => means
  refine ⟨le, new, record, ?_, fun a agree sat => (forced a agree).2 sat, fun a a' agree sat agree' sat' i le lt => ?_⟩
  · have agree := agreeBelow_extendAt ar.nextWire assign values
    exact ⟨_, agree, (forced _ agree).1.2 fun i le _ => by rw [extendAt_of_le le]⟩
  · rw [(forced a agree).1.1 sat i le lt, (forced a' agree').1.1 sat' i le lt]

/-- The lane invariant of a lane of old wires is the same for every choice of the new ones. -/
theorem LaneRep.Below.means_congr {r : LaneRep} {x : Word64} (below : r.Below n) (means : r.Means p assign x)
    (agree : AgreeBelow n assign assign') : r.Means p assign' x := by
  refine ⟨(below.1.value_congr agree).trans means.1, fun bits e => ?_⟩
  obtain ⟨width, h⟩ := means.2 bits e
  exact ⟨width, fun i b hb => ((below.2 bits e b (List.mem_of_getElem? hb)).value_congr agree).trans (h i b hb)⟩

/-! ### explode and trim -/

/-- explode of a wire whose value is known and fits gives wires that carry its bits. -/
theorem forces_explode (prime : p.Prime) (fits : 2 ^ n ≤ p) (lt : x < 2 ^ n) :
    Forces p (fun a => w.value p a = x) ar (explode n w ar).2 fun a => HoldBits p a (explode n w ar).1 x :=
  Forces.emit prime.one_lt x.testBit
    (fun a value => by
      rw [satisfies_explodeConstraints_iff_of_value prime (by simpa using fits) value, length_newWires,
        holdBits_newWires, and_iff_right lt])
    fun _ _ => holdBits_newWires.2

theorem forces_trim (prime : p.Prime) (fits : 2 ^ n ≤ p) (wide : 64 ≤ n) (lt : x < 2 ^ n) :
    Forces p (fun a => w.value p a = x) ar (trim n w ar).2 fun a => (trim n w ar).1.Means p a (trimLow x) :=
  (forces_explode prime fits lt).mono (fun _ h => h) fun _ h =>
    means_trim h wide ((Nat.pow_le_pow_right (by norm_num) wide).trans fits)

/-- The operand bits of XOR and ROTR are 64 wires that carry the operand's bits, reused or exploded (R66, R70). -/
theorem forces_bitsOf (prime : p.Prime) (big : 2 ^ 64 ≤ p) (reuse : Bool) (r : LaneRep) (ar : Arena) (x : Word64) :
    Forces p (fun a => r.Means p a x) ar (bitsOf reuse r ar).2 fun a =>
      (bitsOf reuse r ar).1.length = 64 ∧ HoldBits p a (bitsOf reuse r ar).1 x.toNat := by
  rcases bitsOf_cases reuse r ar with ⟨bits, _, held, e⟩ | e
  · rw [e]
    exact Forces.refl fun _ means => means.2 bits held
  · rw [e]
    exact (forces_explode prime big x.isLt).mono (fun _ means => means.1) fun _ h => ⟨by simp, h⟩

/-! ### XOR (R66) -/

theorem satisfies_xorConstraints_iff (one : 1 < p) : ∀ {xs ys : List Wire} {x y start : Nat},
    HoldBits p assign xs x → HoldBits p assign ys y →
    (Satisfies p assign (xorConstraints xs ys start) ↔
      ∀ i < (xorBits xs ys start).length, assign (start + i) % (p : Int) = (x.testBit i && y.testBit i).toNat)
  | [], ys, x, y, start, _, _ => by simp [xorConstraints, xorBits, Satisfies]
  | b :: xs, [], x, y, start, _, _ => by simp [xorConstraints, xorBits, Satisfies]
  | b :: xs, c :: ys, x, y, start, hx, hy => by
    obtain ⟨hb, hxs⟩ := holdBits_cons.1 hx
    obtain ⟨hc, hys⟩ := holdBits_cons.1 hy
    rw [xorConstraints, Satisfies, List.forall_mem_cons, value_product_iff one hb hc, xorBits, List.length_cons,
      Nat.forall_lt_succ_left, ← Satisfies, satisfies_xorConstraints_iff one hxs hys]
    simp only [Nat.testBit_succ, Nat.add_zero, Nat.add_right_comm, Nat.add_assoc]

/-- With such product wires the result wires carry the exclusive or. -/
theorem holdBits_xorBits (one : 1 < p) : ∀ {xs ys : List Wire} {x y start : Nat},
    HoldBits p assign xs x → HoldBits p assign ys y →
    (∀ i < (xorBits xs ys start).length, assign (start + i) % (p : Int) = (x.testBit i && y.testBit i).toNat) →
    HoldBits p assign (xorBits xs ys start) (x ^^^ y)
  | [], ys, x, y, start, _, _, _ => holdBits_nil
  | b :: xs, [], x, y, start, _, _, _ => holdBits_nil
  | b :: xs, c :: ys, x, y, start, hx, hy, products => by
    obtain ⟨hb, hxs⟩ := holdBits_cons.1 hx
    obtain ⟨hc, hys⟩ := holdBits_cons.1 hy
    rw [xorBits, List.length_cons, Nat.forall_lt_succ_left] at products
    obtain ⟨product, products⟩ := products
    refine holdBits_cons.2 ⟨?_, ?_⟩
    · rw [Nat.testBit_xor]
      exact value_xorBit one hb hc product
    · rw [Nat.xor_div_two]
      refine holdBits_xorBits one hxs hys fun i lt => ?_
      rw [Nat.add_right_comm, ← Nat.testBit_succ, ← Nat.testBit_succ]
      exact products i lt

theorem forces_xorRep (prime : p.Prime) (big : 2 ^ 64 ≤ p) (reuse : Bool) (a b : LaneRep) (ar : Arena)
    (x y : Word64) :
    Forces p (fun env => a.Means p env x ∧ b.Means p env y) ar (xorRep reuse a b ar).2 fun env =>
      (xorRep reuse a b ar).1.Means p env (x ^^^ y) := by
  have first := (forces_bitsOf prime big reuse a ar x).frame (other := fun env => b.Means p env y)
  have second := (forces_bitsOf prime big reuse b (bitsOf reuse a ar).2 y).frame
    (other := fun env => (bitsOf reuse a ar).1.length = 64 ∧ HoldBits p env (bitsOf reuse a ar).1 x.toNat)
  refine first.trans ((second.mono (fun _ h => h.symm) fun _ h => h).trans (Forces.emit prime.one_lt
    (fun i => x.toNat.testBit i && y.toNat.testBit i) ?_ ?_))
  · rintro env ⟨⟨_, hy⟩, _, hx⟩
    exact satisfies_xorConstraints_iff prime.one_lt hx hy
  · rintro env ⟨⟨widthY, hy⟩, widthX, hx⟩ products
    exact (holdBits_xorBits prime.one_lt hx hy products).means_ofBits
      (by rw [length_xorBits, widthX, widthY, Nat.min_self]) big

/-! ### ADD and ADDM (R67, R68) -/

theorem value_add {u v : Wire} (hu : u.value p assign = x) (hv : v.value p assign = y) (lt : x + y < p) :
    (u.add v).value p assign = (x + y : Nat) := by
  rw [value_eq_iff lt, Wire.eval_add]
  push_cast
  exact ((value_eq_iff (by omega)).1 hu).add ((value_eq_iff (by omega)).1 hv)

theorem forces_addRep (prime : p.Prime) (large : 2 ^ 66 < p) (a b : LaneRep) (ar : Arena) (x y : Word64) :
    Forces p (fun env => a.Means p env x ∧ b.Means p env y) ar (addRep a b ar).2 fun env =>
      (addRep a b ar).1.Means p env (sum2 x y) := by
  have small : rawSum2 x y < 2 ^ 65 := by have := rawSum2_le x y; omega
  refine (forces_trim prime (by omega) (by decide) small).mono ?_ fun _ h => h
  rintro env ⟨ha, hb⟩
  exact value_add ha.1 hb.1 (small.trans (by omega))

theorem forces_addmRep (prime : p.Prime) (large : 2 ^ 66 < p) (a b c : LaneRep) (ar : Arena) (x y z : Word64) :
    Forces p (fun env => a.Means p env x ∧ b.Means p env y ∧ c.Means p env z) ar (addmRep a b c ar).2 fun env =>
      (addmRep a b c ar).1.Means p env (sum3 x y z) := by
  have small : rawSum3 x y z < 2 ^ 66 := by have := rawSum3_le x y z; omega
  refine (forces_trim prime large.le (by decide) small).mono ?_ fun _ h => h
  rintro env ⟨ha, hb, hc⟩
  exact value_add (value_add ha.1 hb.1 ((rawSum2_le x y).trans_lt (by omega))) hc.1 (small.trans large)

/-! ### ROTR (R70) -/

/-- R69, on bits: bit `i` of the rotation is bit `i + k` modulo 64. -/
theorem getLsbD_rotr (x : Word64) (k : Nat) {i : Nat} (lt : i < 64) :
    (rotr x k).getLsbD i = x.getLsbD ((i + k) % 64) := by
  have rotate : rotr x k = x.rotateRight k := rfl
  rw [rotate, BitVec.getLsbD_rotateRight, Bool.cond_eq_ite]
  split_ifs with low <;> rw [decide_eq_true_eq] at low
  · congr 1
    omega
  · rw [decide_eq_true lt, Bool.true_and]
    congr 1
    omega

theorem HoldBits.rotate {x : Word64} (h : HoldBits p assign bits x.toNat) (width : bits.length = 64) (k : Nat) :
    HoldBits p assign (bits.rotate (k % 64)) (rotr x k).toNat := by
  intro i b e
  have lt : i < 64 := by simpa [width] using (List.getElem?_eq_some_iff.1 e).1
  rw [List.getElem?_rotate (by rwa [width]), width, Nat.add_mod_mod] at e
  rw [h _ b e]
  exact congrArg (fun c : Bool => ((c.toNat : Nat) : Int)) (getLsbD_rotr x k lt).symm

theorem forces_rotrRep (prime : p.Prime) (big : 2 ^ 64 ≤ p) (reuse : Bool) (k : Nat) (a : LaneRep) (ar : Arena)
    (x : Word64) :
    Forces p (fun env => a.Means p env x) ar (rotrRep reuse k a ar).2 fun env =>
      (rotrRep reuse k a ar).1.Means p env (rotr x k) :=
  (forces_bitsOf prime big reuse a ar x).mono (fun _ h => h) fun _ ⟨width, h⟩ =>
    (h.rotate width k).means_ofBits (by rw [List.length_rotate, width]) big

/-- Settles O49: each circuit's triple forces its result, and the lane invariant of the operands, where it starts, does
not depend on the new wires. -/
theorem laneCircuitsComputeTheirValues : Obligations.LaneCircuitsComputeTheirValues := by
  intro p ar a b c x y z assign reuse k prime large belowA belowB belowC hx hy hz
  have big : 2 ^ 64 ≤ p := by omega
  have keepA (env : Nat → Int) (old : AgreeBelow ar.nextWire assign env) := belowA.means_congr hx old
  have keepB (env : Nat → Int) (old : AgreeBelow ar.nextWire assign env) := belowB.means_congr hy old
  have keepC (env : Nat → Int) (old : AgreeBelow ar.nextWire assign env) := belowC.means_congr hz old
  refine ⟨(forces_xorRep prime big reuse a b ar x y).uniquelyComputes fun env old => ?_,
    (forces_addRep prime large a b ar x y).uniquelyComputes fun env old => ?_,
    (forces_addmRep prime large a b c ar x y z).uniquelyComputes fun env old => ?_,
    (forces_rotrRep prime big reuse k a ar x).uniquelyComputes keepA⟩
  · exact ⟨keepA env old, keepB env old⟩
  · exact ⟨keepA env old, keepB env old⟩
  · exact ⟨keepA env old, keepB env old, keepC env old⟩

end Sys2Proof.Machine
end

section
/-! PROOFS. The lanes of a mix call (41_mix_round.md R76, R79): it reads and writes its own lanes alone, so that calls
on disjoint lanes commute. -/

namespace Sys2Proof.Machine

/-! ### Working vectors, lane by lane -/

section Patch

variable {α : Type} {lanes lanes' : List (Fin 16)} {u v w : Vector α 16}

theorem ext_lanes (h : ∀ i : Fin 16, v[i] = w[i]) : v = w :=
  Vector.ext fun i hi => h ⟨i, hi⟩

theorem getElem_set_lane (v : Vector α 16) (a i : Fin 16) (x : α) : (v.set a x)[i] = if a = i then x else v[i] := by
  simp [Vector.getElem_set, Fin.ext_iff]

/-- The lanes named in `lanes` taken from `w`, every other lane from `v`. -/
def patch (lanes : List (Fin 16)) (w v : Vector α 16) : Vector α 16 :=
  Vector.ofFn fun i => if i ∈ lanes then w[i] else v[i]

theorem getElem_patch (i : Fin 16) : (patch lanes w v)[i] = if i ∈ lanes then w[i] else v[i] := by
  simp [patch]

theorem getElem_patch_of_mem {i : Fin 16} (mem : i ∈ lanes) : (patch lanes w v)[i] = w[i] := by
  rw [getElem_patch, if_pos mem]

theorem getElem_patch_of_notMem {i : Fin 16} (mem : i ∉ lanes) : (patch lanes w v)[i] = v[i] := by
  rw [getElem_patch, if_neg mem]

/-- Patching in lanes that agree changes nothing. -/
theorem patch_eq_self (agree : ∀ i ∈ lanes, w[i] = v[i]) : patch lanes w v = v :=
  ext_lanes fun i => by
    rw [getElem_patch]
    exact ite_eq_right_iff.2 (agree i)

/-- Writing one of the lanes before the patch is writing it after. -/
theorem patch_set {a : Fin 16} (mem : a ∈ lanes) (x : α) : patch lanes (w.set a x) v = (patch lanes w v).set a x :=
  ext_lanes fun i => by
    rw [getElem_patch, getElem_set_lane, getElem_set_lane, getElem_patch]
    by_cases eq : a = i
    · simp [← eq, mem]
    · simp [eq]

/-- Patches of disjoint lanes may be made in either order. -/
theorem patch_comm (disjoint : ∀ i ∈ lanes, i ∉ lanes') :
    patch lanes u (patch lanes' w v) = patch lanes' w (patch lanes u v) :=
  ext_lanes fun i => by
    simp only [getElem_patch]
    by_cases mem : i ∈ lanes
    · simp [mem, disjoint i mem]
    · simp [mem]

/-- G's write-back (R76) is a patch by lanes that hold values. -/
theorem overwrite_eq_patch (words : Vector Word64 16) (o : Vector (Option Word64) 16) :
    overwrite lanes words o = patch lanes (written words) o :=
  ext_lanes fun i => by simp [overwrite, patch]

end Patch

/-! ### The two halves of the mix function -/

/-- Steps 1 to 4 of the mix function (R76), and with the other message lane and amounts its steps 5 to 8. -/
def halfMix (v : Vector Word64 16) (a b c d : Fin 16) (m : Word64) (j k : RotAmount) : Vector Word64 16 :=
  let v := v.set a (sum3 v[a] v[b] m)
  let v := v.set d (rotr (v[d] ^^^ v[a]) j.val)
  let v := v.set c (sum2 v[c] v[d])
  v.set b (rotr (v[b] ^^^ v[c]) k.val)

theorem mix_eq_halfMix (v : Vector Word64 16) (a b c d : Fin 16) (mx my : Word64) :
    mix v a b c d mx my = halfMix (halfMix v a b c d mx 32 24) a b c d my 16 63 := rfl

/-- Half a mix call reads and writes its four lanes alone. -/
theorem halfMix_patch {lanes : List (Fin 16)} {a b c d : Fin 16} (ha : a ∈ lanes) (hb : b ∈ lanes) (hc : c ∈ lanes)
    (hd : d ∈ lanes) (w v : Vector Word64 16) (m : Word64) (j k : RotAmount) :
    halfMix (patch lanes w v) a b c d m j k = patch lanes (halfMix w a b c d m j k) v := by
  simp only [halfMix, ← patch_set, getElem_patch_of_mem, ha, hb, hc, hd]

/-! ### Mix calls in either order (R79) -/

/-- One mix call. -/
def mixCall (v : Vector Word64 16) (c : MixCall) : Vector Word64 16 :=
  mix v c.1.1 c.1.2.1 c.1.2.2.1 c.1.2.2.2 c.2.1 c.2.2

theorem mixCalls_eq_foldl (calls : List MixCall) (v : Vector Word64 16) : mixCalls calls v = calls.foldl mixCall v := rfl

/-- A mix call reads and writes its four lanes alone (R76). -/
theorem mixCall_patch (c : MixCall) (w v : Vector Word64 16) :
    mixCall (patch (laneSet c.1) w v) c = patch (laneSet c.1) (mixCall w c) v := by
  simp only [mixCall, mix_eq_halfMix]
  rw [halfMix_patch, halfMix_patch] <;> simp [laneSet]

/-- What a mix call does to a vector is decided by another that agrees with it on the four lanes. -/
theorem mixCall_eq_patch {c : MixCall} {w v : Vector Word64 16} (agree : ∀ i ∈ laneSet c.1, w[i] = v[i]) :
    mixCall v c = patch (laneSet c.1) (mixCall w c) v := by
  rw [← mixCall_patch, patch_eq_self agree]

theorem getElem_mixCall_of_notMem {c : MixCall} {i : Fin 16} (mem : i ∉ laneSet c.1) (v : Vector Word64 16) :
    (mixCall v c)[i] = v[i] := by
  rw [mixCall_eq_patch fun _ _ => rfl, getElem_patch_of_notMem mem]

/-- Two mix calls give one result in either order. -/
def MixCommutes (c e : MixCall) : Prop := ∀ v, mixCall (mixCall v c) e = mixCall (mixCall v e) c

theorem mixCommutes_of_disjoint {c e : MixCall} (disjoint : ∀ i ∈ laneSet c.1, i ∉ laneSet e.1) : MixCommutes c e := by
  intro v
  have keepsE : ∀ i ∈ laneSet e.1, v[i] = (mixCall v c)[i] := fun i mem =>
    (getElem_mixCall_of_notMem (fun mem' => disjoint i mem' mem) v).symm
  have keepsC : ∀ i ∈ laneSet c.1, v[i] = (mixCall v e)[i] := fun i mem =>
    (getElem_mixCall_of_notMem (disjoint i mem) v).symm
  have own (c : MixCall) : mixCall v c = patch (laneSet c.1) (mixCall v c) v := mixCall_eq_patch fun _ _ => rfl
  calc mixCall (mixCall v c) e
      = patch (laneSet e.1) (mixCall v e) (mixCall v c) := mixCall_eq_patch keepsE
    _ = patch (laneSet e.1) (mixCall v e) (patch (laneSet c.1) (mixCall v c) v) := by rw [← own c]
    _ = patch (laneSet c.1) (mixCall v c) (patch (laneSet e.1) (mixCall v e) v) := (patch_comm disjoint).symm
    _ = patch (laneSet c.1) (mixCall v c) (mixCall v e) := by rw [← own e]
    _ = mixCall (mixCall v e) c := (mixCall_eq_patch keepsC).symm

/-- Calls on pairwise disjoint lane sets may be performed in any order. -/
theorem mixCalls_perm {calls calls' : List MixCall} (perm : calls'.Perm calls)
    (disjoint : (calls.map fun c => c.1).Pairwise fun p q => ∀ i ∈ laneSet p, i ∉ laneSet q)
    (v : Vector Word64 16) : mixCalls calls' v = mixCalls calls v := by
  have pairwise : calls.Pairwise MixCommutes := (List.pairwise_map.1 disjoint).imp mixCommutes_of_disjoint
  have symm : Std.Symm MixCommutes := ⟨fun _ _ h v => (h v).symm⟩
  have commutes : ∀ c ∈ calls, ∀ e ∈ calls, MixCommutes c e := fun _ hc _ he =>
    pairwise.forall_of_forall (fun _ _ _ => rfl) hc he
  rw [mixCalls_eq_foldl, mixCalls_eq_foldl]
  exact (perm.symm.foldl_eq' commutes v).symm

theorem columnSets_disjoint : columnSets.Pairwise fun p q => ∀ i ∈ laneSet p, i ∉ laneSet q := by decide

theorem diagonalSets_disjoint : diagonalSets.Pairwise fun p q => ∀ i ∈ laneSet p, i ∉ laneSet q := by decide

/-- A test of every column set against every diagonal set. -/
theorem forall_column_diagonal {P : (p q : Fin 16 × Fin 16 × Fin 16 × Fin 16) → Prop} [∀ p q, Decidable (P p q)]
    (test : (columnSets.all fun p => diagonalSets.all fun q => P p q) = true) :
    ∀ p ∈ columnSets, ∀ q ∈ diagonalSets, P p q := by
  simpa only [List.all_eq_true, decide_eq_true_eq] using test

theorem column_meets_diagonal_once : ∀ p ∈ columnSets, ∀ q ∈ diagonalSets,
    ((laneSet p).filter fun i => i ∈ laneSet q).length = 1 :=
  forall_column_diagonal (by decide)

/-- On the working vector of ones the order of a column call and a diagonal call matters. -/
theorem column_diagonal_swap_ne : ∀ p ∈ columnSets, ∀ q ∈ diagonalSets,
    mixCalls [(p, 0, 0), (q, 0, 0)] (Vector.replicate 16 1) ≠
      mixCalls [(q, 0, 0), (p, 0, 0)] (Vector.replicate 16 1) :=
  forall_column_diagonal (by decide)

/-- Settles O26: calls on disjoint lane sets commute; a column call and a diagonal call, which share a lane, do not, on the
working vector of ones already. -/
theorem columnAndDiagonalOrder : Obligations.ColumnAndDiagonalOrder := by
  refine ⟨columnSets_disjoint, diagonalSets_disjoint, column_meets_diagonal_once, ?_,
    fun p hp q hq => ⟨_, column_diagonal_swap_ne p hp q hq⟩⟩
  rintro sets calls calls' v (rfl | rfl) lanes perm
  · exact mixCalls_perm perm (lanes ▸ columnSets_disjoint) v
  · exact mixCalls_perm perm (lanes ▸ diagonalSets_disjoint) v

end Sys2Proof.Machine
end

section
/-! PROOFS. The rows of SIGMA (41_mix_round.md R75). -/

namespace Sys2Proof.Machine

theorem sigmaRow_add_ten (p : Config.Params) (r : Nat) : sigmaRow p (r + 10) = sigmaRow p r := by
  simp only [sigmaRow, Nat.add_mod_right]

/-- Legal rounds of one row act alike: ROUND uses its number for the row alone (R78). -/
theorem execRound_congr {r r' : RoundNumber} (lt : r.val < 12) (lt' : r'.val < 12) {s : State}
    (row : sigmaRow s.params r.val = sigmaRow s.params r'.val) : execRound r s = execRound r' s := by
  simp only [execRound, roundWords, row, if_pos lt, if_pos lt']

/-- Settles O25: rounds ten apart have one row. -/
theorem rowsRepeatAfterTenRounds : Obligations.RowsRepeatAfterTenRounds := by
  refine ⟨fun p r lt => ?_, fun s => ⟨?_, ?_⟩⟩
  · have row : r % 10 = if r < 10 then r else r - 10 := by split <;> omega
    simp only [sigmaRow, row]
  · exact execRound_congr (by decide) (by decide) (sigmaRow_add_ten _ 0)
  · exact execRound_congr (by decide) (by decide) (sigmaRow_add_ten _ 1)

end Sys2Proof.Machine
end

section
/-! PROOFS. G against its twelve primitive commands (41_mix_round.md R77): the states the expansion goes through, and
where it faults part-way. -/

namespace Sys2Proof.Machine

/-! ### Half an expansion -/

/-- The six commands of half of G's expansion (R77). -/
def halfExpansion (a b c d : LaneAddr) (x : MsgIndex) (j k : RotAmount) : List Instr :=
  [.addm a a b x, .xor d d a, .rotr d d j, .add c c d, .xor b b c, .rotr b b k]

theorem mixExpansion_eq_halves (a b c d : LaneAddr) (x y : MsgIndex) :
    mixExpansion a b c d x y = halfExpansion a b c d x 32 24 ++ halfExpansion a b c d y 16 63 := rfl

/-- The field level of half of G (R76). -/
def fieldHalfMix (reuse : Bool) (a b c d : WorkIndex) (x : MsgIndex) (j k : RotAmount) (f : FieldLevel) : FieldLevel :=
  let f := fieldAddm (.v a) (.v a) (.v b) x f
  let f := fieldXorRotr reuse (.v d) (.v a) j.val f
  let f := fieldAdd (.v c) (.v c) (.v d) f
  fieldXorRotr reuse (.v b) (.v c) k.val f

theorem fieldMix_eq_halves (reuse : Bool) (a b c d : WorkIndex) (x y : MsgIndex) (f : FieldLevel) :
    fieldMix reuse a b c d x y f =
      fieldHalfMix reuse a b c d y 16 63 (fieldHalfMix reuse a b c d x 32 24 f) := rfl

/-! ### Writing back to lanes that hold values -/

section Overwrite

variable {lanes : List WorkIndex} {w : Vector Word64 16} {o : Vector (Option Word64) 16}

theorem getElem_overwrite_of_mem {i : WorkIndex} (mem : i ∈ lanes) : (overwrite lanes w o)[i] = some w[i] := by
  rw [overwrite_eq_patch, getElem_patch_of_mem mem]
  exact getElem_written w i i.isLt

theorem written_set (w : Vector Word64 16) (a : WorkIndex) (x : Word64) :
    written (w.set a x) = (written w).set a (some x) :=
  ext_lanes fun i => by
    rw [getElem_set_lane]
    simp only [Fin.getElem_fin, getElem_written, Vector.getElem_set, Fin.ext_iff]
    split <;> rfl

theorem overwrite_set {a : WorkIndex} (mem : a ∈ lanes) (x : Word64) :
    overwrite lanes (w.set a x) o = (overwrite lanes w o).set a (some x) := by
  rw [overwrite_eq_patch, overwrite_eq_patch, written_set, patch_set mem]

/-- Lanes that hold values are overwritten by those values without effect. -/
theorem overwrite_wordsOf (held : ∀ i ∈ lanes, o[i] ≠ none) : overwrite lanes (wordsOf o) o = o := by
  rw [overwrite_eq_patch]
  refine patch_eq_self fun i mem => ?_
  obtain ⟨x, e⟩ := Option.ne_none_iff_exists'.1 (held i mem)
  have e' : o[i.val] = some x := e
  simp [wordsOf, e']

end Overwrite

/-! ### The states part-way through an expansion -/

theorem laneOf_workAddr (i : WorkIndex) : laneOf (workAddr i) = some (.v i) := dif_pos i.isLt

/-- The state reached from `s` by `n` commands that write values to the named lanes of v, all of which hold one. -/
def State.partWay (s : State) (lanes : List WorkIndex) (w : Vector Word64 16) (f : FieldLevel) (n : Nat) : State :=
  { s with v := overwrite lanes w s.v, field := f, cp := s.cp + n }

section PartWay

variable {s : State} {lanes : List WorkIndex} {w : Vector Word64 16} {f : FieldLevel} {n : Nat} {a b c d : WorkIndex}

-- By `dsimp`: checking `rfl` here would have the unifier evaluate `overwrite`.
@[simp] theorem State.partWay_params : (s.partWay lanes w f n).params = s.params := by dsimp only [State.partWay]
@[simp] theorem State.partWay_m : (s.partWay lanes w f n).m = s.m := by dsimp only [State.partWay]
@[simp] theorem State.partWay_fault : (s.partWay lanes w f n).fault = s.fault := by dsimp only [State.partWay]
@[simp] theorem State.partWay_field : (s.partWay lanes w f n).field = f := by dsimp only [State.partWay]

theorem lane_partWay (mem : a ∈ lanes) : (s.partWay lanes w f n).lane (.v a) = some w[a] :=
  getElem_overwrite_of_mem mem

theorem writeResult_partWay (mem : d ∈ lanes) (x : Word64) (f' : FieldLevel) :
    (s.partWay lanes w f n).writeResult (.v d) x f' = s.partWay lanes (w.set d x) f' (n + 1) := by
  simp only [State.writeResult, State.setLane, State.setField, State.advance, State.partWay, overwrite_set mem,
    Nat.add_assoc]

theorem binaryLane_partWay (ha : a ∈ lanes) (hb : b ∈ lanes) (hd : d ∈ lanes) (op : Word64 → Word64 → Word64)
    (circuit : LaneName → LaneName → LaneName → FieldLevel → FieldLevel) :
    binaryLane (workAddr d) (workAddr a) (workAddr b) op circuit (s.partWay lanes w f n) =
      .next (s.partWay lanes (w.set d (op w[a] w[b])) (circuit (.v d) (.v a) (.v b) f) (n + 1)) := by
  simp only [binaryLane, withLanes3, laneOf_workAddr, withValue_some (lane_partWay ha), withValue_some (lane_partWay hb),
    writeResult_partWay hd, State.partWay_field]

theorem exec_xor_partWay (ha : a ∈ lanes) (hb : b ∈ lanes) (hd : d ∈ lanes) :
    exec (.xor (workAddr d) (workAddr a) (workAddr b)) (s.partWay lanes w f n) =
      .next (s.partWay lanes (w.set d (w[a] ^^^ w[b]))
        (fieldXor s.params.reuseExploded (.v d) (.v a) (.v b) f) (n + 1)) := by
  simp only [exec, execXor, binaryLane_partWay ha hb hd, State.partWay_params]

theorem exec_add_partWay (ha : a ∈ lanes) (hb : b ∈ lanes) (hd : d ∈ lanes) :
    exec (.add (workAddr d) (workAddr a) (workAddr b)) (s.partWay lanes w f n) =
      .next (s.partWay lanes (w.set d (sum2 w[a] w[b])) (fieldAdd (.v d) (.v a) (.v b) f) (n + 1)) := by
  simp only [exec, execAdd, binaryLane_partWay ha hb hd]

theorem exec_rotr_partWay (ha : a ∈ lanes) (hd : d ∈ lanes) (k : RotAmount) :
    exec (.rotr (workAddr d) (workAddr a) k) (s.partWay lanes w f n) =
      .next (s.partWay lanes (w.set d (rotr w[a] k.val))
        (fieldRotr s.params.reuseExploded (.v d) (.v a) k.val f) (n + 1)) := by
  simp only [exec, execRotr, withLanes2, laneOf_workAddr, withValue_some (lane_partWay ha), writeResult_partWay hd,
    State.partWay_params, State.partWay_field]

theorem exec_addm_partWay (ha : a ∈ lanes) (hb : b ∈ lanes) (hd : d ∈ lanes) {x : MsgIndex} {m : Word64}
    (hm : s.m[x] = some m) :
    exec (.addm (workAddr d) (workAddr a) (workAddr b) x) (s.partWay lanes w f n) =
      .next (s.partWay lanes (w.set d (sum3 w[a] w[b] m)) (fieldAddm (.v d) (.v a) (.v b) x f) (n + 1)) := by
  simp only [exec, execAddm, withLanes3, laneOf_workAddr, withValue_some (lane_partWay ha),
    withValue_some (lane_partWay hb), State.partWay_m, withValue_some hm, writeResult_partWay hd, State.partWay_field]

/-- A command that completes hands on to the rest. -/
theorem execAll_cons {i : Instr} {is : List Instr} {s t : State} (completes : exec i s = .next t) (ok : t.fault = 0) :
    execAll (i :: is) s = execAll is t := by
  simp only [execAll, completes, if_pos ok]

variable (ok : s.fault = 0) (is : List Instr)
include ok

theorem execAll_cons_partWay {i : Instr} {w' : Vector Word64 16} {f' : FieldLevel} {n' : Nat}
    (completes : exec i (s.partWay lanes w f n) = .next (s.partWay lanes w' f' n')) :
    execAll (i :: is) (s.partWay lanes w f n) = execAll is (s.partWay lanes w' f' n') :=
  execAll_cons completes (by rw [State.partWay_fault, ok])

/-- Steps 2, 4, 6 and 8 of R76, as XOR and ROTR. -/
theorem execAll_xor_rotr_partWay (ha : a ∈ lanes) (hd : d ∈ lanes) (k : RotAmount) :
    execAll (.xor (workAddr d) (workAddr d) (workAddr a) :: .rotr (workAddr d) (workAddr d) k :: is)
        (s.partWay lanes w f n) =
      execAll is (s.partWay lanes (w.set d (rotr (w[d] ^^^ w[a]) k.val))
        (fieldXorRotr s.params.reuseExploded (.v d) (.v a) k.val f) (n + 2)) := by
  rw [execAll_cons_partWay ok _ (exec_xor_partWay hd ha hd), execAll_cons_partWay ok _ (exec_rotr_partWay hd hd k),
    getElem_set_lane, if_pos rfl, Vector.set_set]
  rfl

/-- Half of the expansion does half of G's mix to the lanes and half of its circuit to the field level. -/
theorem execAll_halfExpansion_partWay (ha : a ∈ lanes) (hb : b ∈ lanes) (hc : c ∈ lanes) (hd : d ∈ lanes)
    {x : MsgIndex} {m : Word64} (hm : s.m[x] = some m) (j k : RotAmount) :
    execAll (halfExpansion (workAddr a) (workAddr b) (workAddr c) (workAddr d) x j k ++ is) (s.partWay lanes w f n) =
      execAll is (s.partWay lanes (halfMix w a b c d m j k)
        (fieldHalfMix s.params.reuseExploded a b c d x j k f) (n + 6)) := by
  simp only [halfExpansion, List.cons_append, List.nil_append]
  rw [execAll_cons_partWay ok _ (exec_addm_partWay ha hb ha hm), execAll_xor_rotr_partWay ok _ ha hd,
    execAll_cons_partWay ok _ (exec_add_partWay hc hd hc), execAll_xor_rotr_partWay ok _ hc hb]
  rfl

end PartWay

/-! ### G -/

/-- A command that leaves FAULT 0 has completed, on operands that hold values (60_exceptions.md R111). -/
theorem completed_of_exec_fault_zero {i : Instr} {s t : State} (h : exec i s = .next t) (ok : t.fault = 0) :
    t = completed i s ∧ ¬ OperandUnwritten s i := by
  have raised (c : FaultCode) (eq : exec i s = raise c s) : t.fault ≠ 0 := by
    rw [Host.Outcome.next.inj (h.symm.trans eq)]
    exact s.enterFault_fault_ne_zero c
  cases exec_cases i s with
  | illegal _ eq => exact absurd ok (raised _ eq)
  | unwritten _ _ eq => exact absurd ok (raised _ eq)
  | range _ _ _ eq => exact absurd ok (raised _ eq)
  | completes _ wr _ eq => exact ⟨Host.Outcome.next.inj (h.symm.trans eq), wr⟩

/-- The expansion of a G whose operands hold values leaves the state G leaves, but for cp. -/
theorem execAll_expand_gp {s : State} {a b c d : WorkIndex} {x y : MsgIndex} (ok : s.fault = 0)
    (held : ¬ OperandUnwritten s (.g a b c d x y)) :
    execAll (expand (.gp a b c d x y)) s = .next { completed (.g a b c d x y) s with cp := s.cp + 12 } := by
  simp only [OperandUnwritten, not_or] at held
  obtain ⟨ha, hb, hc, hd, hx, hy⟩ := held
  obtain ⟨mx, ex⟩ := Option.ne_none_iff_exists'.1 hx
  obtain ⟨my, ey⟩ := Option.ne_none_iff_exists'.1 hy
  have start : s = s.partWay [a, b, c, d] (wordsOf s.v) s.field 0 := by
    rw [State.partWay, overwrite_wordsOf (by rintro i mem; fin_cases mem <;> assumption)]
    rfl
  calc execAll (expand (.gp a b c d x y)) s
      = execAll (expand (.gp a b c d x y)) (s.partWay [a, b, c, d] (wordsOf s.v) s.field 0) := by rw [← start]
    _ = execAll [] (s.partWay [a, b, c, d] (mix (wordsOf s.v) a b c d mx my)
          (fieldMix s.params.reuseExploded a b c d x y s.field) 12) := by
      simp only [expand, mixExpansion_eq_halves]
      rw [execAll_halfExpansion_partWay ok _ (by simp) (by simp) (by simp) (by simp) ex,
        ← List.append_nil (halfExpansion _ _ _ _ y _ _),
        execAll_halfExpansion_partWay ok _ (by simp) (by simp) (by simp) (by simp) ey]
      rfl
    _ = .next { completed (.g a b c d x y) s with cp := s.cp + 12 } := by
      simp [execAll, completed, mixLanes, ex, ey, State.partWay]

/-- A state whose v[0], v[1], v[2] and m[0] hold values and whose v[3] does not. -/
def gapState : State :=
  (((State.reset.setLane (.v 0) (some 1)).setLane (.v 1) (some 1)).setLane (.v 2) (some 1)).setLane (.m 0) (some 1)

/-- G checks its operands before step 1 (R76). -/
theorem exec_g_gapState : exec (.g 0 1 2 3 0 0) gapState = .next { gapState with fault := 2 } := rfl

/-- The expansion's ADDM completes, and its first XOR reads v[3]. -/
theorem execAll_gapState : execAll (expand (.gp 0 1 2 3 0 0)) gapState =
    .next { completed (.addm 0 0 1 0) gapState with fault := 2 } := rfl

theorem gapState_v_ne : (completed (.addm 0 0 1 0) gapState).v ≠ gapState.v := by decide

/-- Settles O23: a G that completes read six lanes that hold values, and its expansion then goes through both halves; from
a state whose last named lane holds no value G writes nothing, and the expansion faults at its second command. -/
theorem mixEqualsItsPrimitives : Obligations.MixEqualsItsPrimitives := by
  refine ⟨fun s t a b c d x y ok h done => ?_, gapState, _, 0, 1, 2, 3, 0, 0, rfl, exec_g_gapState, execAll_gapState, rfl,
    gapState_v_ne⟩
  obtain ⟨rfl, held⟩ := completed_of_exec_fault_zero h done
  exact ⟨rfl, execAll_expand_gp ok held, completed_cp _ s⟩

end Sys2Proof.Machine
end

section
/-! PROOFS. The faults (60_exceptions.md R111, R112, R118): which one a fetched word raises, that a fault stops the block
until reset, and the length check of construction. -/

namespace Sys2Proof.Machine

variable {s : State}

/-! ### Which fault a word raises (R111) -/

/-- A word that decodes to a command is not one of R51's, and the command is legal. -/
theorem legal_of_decode {w : CommandWord} {i : Instr} (h : decode w = .command i) :
    ¬ IllegalWord w ∧ i.wellFormed = true := by
  have legal : ¬ IllegalWord w := fun ill => by
    obtain ⟨_, e⟩ := decode_of_illegalWord ill
    cases h.symm.trans e
  obtain ⟨j, e, _, wf⟩ := decode_of_not_illegalWord legal
  cases h.symm.trans e
  exact ⟨legal, wf⟩

/-- A word that the decoder rejects is one of R51's. -/
theorem illegalWord_of_decode {w : CommandWord} {why : IllegalReason} (h : decode w = .illegal why) :
    IllegalWord w := by
  by_contra legal
  obtain ⟨_, e, _⟩ := decode_of_not_illegalWord legal
  cases h.symm.trans e

/-- Only LDCHUNK can name a chunk out of range, and it reads no lane: the two columns of R111 exclude each other. -/
theorem not_operandUnwritten_of_chunkOutOfRange {i : Instr} (out : ChunkOutOfRange s i) : ¬ OperandUnwritten s i := by
  cases i with
  | ldchunk => exact fun un => un
  | _ => exact out.elim

/-- Settles O10: the decoder rejects the word, or the command it reads takes one of three outcomes, each under a condition
that shuts out the others. -/
theorem faultsPerCommand : Obligations.FaultsPerCommand := by
  intro s w unfaulted
  rcases runWord_cases s w unfaulted with ⟨why, hd, run⟩ | ⟨i, hd, outcome⟩
  · have ill := illegalWord_of_decode hd
    exact ⟨_, run, by simp [unfaulted, FaultCode.code, hd, ill]⟩
  · obtain ⟨legal, wf⟩ := legal_of_decode hd
    rcases outcome with ⟨ill, _⟩ | ⟨_, un, run⟩ | ⟨_, wr, out, run⟩ | ⟨_, wr, inside, run⟩
    · rw [wf] at ill; cases ill
    · have inside : ¬ ChunkOutOfRange s i := fun out => not_operandUnwritten_of_chunkOutOfRange out un
      exact ⟨_, run, by simp [unfaulted, FaultCode.code, hd, legal, un, inside]⟩
    · exact ⟨_, run, by simp [unfaulted, FaultCode.code, hd, legal, wr, out]⟩
    · exact ⟨_, run, by simp [completed_fault, unfaulted, hd, legal, wr, inside]⟩

/-! ### A faulted block (R118) -/

theorem step_ne_next_of_faulted (faulted : s.fault ≠ 0) (t : State) : step s ≠ .next t := fun h => by
  obtain ⟨_, unfaulted, _⟩ := fetched_of_step h
  exact faulted unfaulted

theorem final_of_faulted (faulted : s.fault ≠ 0) : s.final = false := by
  rw [State.final, beq_false_of_ne faulted, Bool.and_false, Bool.false_and, Bool.false_and]

theorem runEnded_of_faulted (faulted : s.fault ≠ 0) : s.runEnded = true := by
  rw [State.runEnded, bne_iff_ne.2 faulted, Bool.or_true, Bool.true_or]

/-- The host can reset a faulted block or read from it, and makes no other move (43_host_driver.md R90, R99). -/
theorem hostMove_of_faulted {mv : HostMove} {t : State} (faulted : s.fault ≠ 0) (h : hostMove mv s = some t) :
    (mv = .reset ∧ t = s.hostReset) ∨ (mv = .read ∧ t = s) := by
  have ended := runEnded_of_faulted faulted
  have notFinal := final_of_faulted faulted
  rcases hostMove_some h with reset | ⟨_, _, _, running, _⟩ | ⟨_, _, _, _, running, _⟩ | ⟨_, _, _, _, running, _⟩ |
    ⟨_, _, running, _⟩ | ⟨rfl, _, rfl⟩ | ⟨_, _, final, _⟩
  · exact .inl reset
  · cases running.symm.trans ended
  · cases running.symm.trans ended
  · cases running.symm.trans ended
  · cases running.symm.trans ended
  · exact .inr ⟨rfl, rfl⟩
  · cases final.symm.trans notFinal

/-- Settles O13: the fetch stops at a fault, and of the two moves left to the host reading changes nothing. -/
theorem onlyResetClearsFault : Obligations.OnlyResetClearsFault := by
  intro s faulted
  refine ⟨step_ne_next_of_faulted faulted, fun mv t h notReset => ?_, s.hostReset, rfl, rfl⟩
  rcases hostMove_of_faulted faulted h with ⟨isReset, _⟩ | ⟨_, rfl⟩
  · exact absurd isReset notReset
  · rfl

/-! ### The length check of construction (R112) -/

/-- A run that has not ended holds no fault (43_host_driver.md R100). -/
theorem unfaulted_of_running (running : s.runEnded = false) : s.fault = 0 := by
  by_contra faulted
  cases running.symm.trans (runEnded_of_faulted faulted)

/-- The check of 43_host_driver.md R91. -/
theorem lengthAdmitted_iff (n bw len : Nat) :
    lengthAdmitted n bw len = true ↔ ((n : Int) - 1) * bw ≤ 8 * len ∧ 8 * len ≤ n * bw := by
  simp [lengthAdmitted]

theorem hostMove_construct (unbuilt : s.built = false) (running : s.runEnded = false) (a : ConstructArgs) :
    hostMove (.construct a) s = some (s.construct a) := by
  simp [hostMove, unbuilt, running]

theorem hostMove_construct_of_faulted (faulted : s.fault ≠ 0) (a : ConstructArgs) :
    hostMove (.construct a) s = none := by
  simp [hostMove, runEnded_of_faulted faulted]

/-- A construction that passes the length check leaves FAULT, whether it is refused or builds the gadget. -/
theorem construct_fault_of_admitted {a : ConstructArgs}
    (admitted : lengthAdmitted a.inputs.length a.bitWidth a.len = true) : (s.construct a).fault = s.fault := by
  rcases construct_cases s a with ⟨failed, _⟩ | ⟨_, _, e⟩ | ⟨_, _, e⟩
  · cases admitted.symm.trans failed
  · rw [e]; rfl
  · rw [e]; rfl

/-- A construction that fails the length check writes the configuration registers and enters CONFIG_LENGTH (R116: before
any refusal). -/
theorem construct_of_not_admitted {a : ConstructArgs}
    (failed : lengthAdmitted a.inputs.length a.bitWidth a.len = false) :
    s.construct a = (s.configure a).enterFault .configLength := by
  rw [State.construct, failed]; rfl

/-- Settles O57: the length check alone decides whether construction enters CONFIG_LENGTH, and a block that has entered it
stands still until reset, like every faulted block. -/
theorem constructionLengthCheck : Obligations.ConstructionLengthCheck := by
  intro s a unbuilt running
  have unfaulted := unfaulted_of_running running
  refine ⟨_, hostMove_construct unbuilt running a, ?_⟩
  rw [← lengthAdmitted_iff]
  cases check : lengthAdmitted a.inputs.length a.bitWidth a.len with
  | true =>
    have ok : (s.construct a).fault = 0 := (construct_fault_of_admitted check).trans unfaulted
    simp [ok]
  | false =>
    rw [construct_of_not_admitted check]
    have code : ((s.configure a).enterFault .configLength).fault = 4 := if_pos unfaulted
    have faulted : ((s.configure a).enterFault .configLength).fault ≠ 0 := State.enterFault_fault_ne_zero _ _
    exact ⟨iff_of_true code nofun, fun _ => ⟨unbuilt, rfl, rfl, step_ne_next_of_faulted faulted,
      hostMove_construct_of_faulted faulted⟩, .inl code⟩

end Sys2Proof.Machine
end

section
/-! PROOFS. The encoding (30_encoding.md R45 to R55): the fields of an encoded word, the two round trips, the illegal
words, the match/mask rows and the lane address map. -/

namespace Sys2Proof.Machine

variable {w : CommandWord}

/-! ### The fields of an encoded word (R46 to R48) -/

theorem fieldAt_ofNat {n : Nat} (small : n < 2 ^ 32) (lo len : Nat) :
    fieldAt (BitVec.ofNat 32 n) lo len = n / 2 ^ lo % 2 ^ len := by
  rw [fieldAt, BitVec.toNat_ofNat, Nat.mod_eq_of_lt small]

theorem finAt_eq_iff {n len : Nat} [NeZero n] (width : n = 2 ^ len) (lo : Nat) (x : Fin n) :
    finAt n w lo len = x ↔ fieldAt w lo len = x.val := by
  rw [Fin.ext_iff, val_finAt width]

/-- What the decoder reads from a word of format R. -/
theorem fields_formatR (op : Fin 16) (rd rs1 rs2 : LaneAddr) (mx : Fin 16) (amt : Fin 64) {w : CommandWord}
    (e : w = formatR op rd rs1 rs2 mx amt) :
    opcodeOf w = op ∧ rdOf w = rd ∧ rs1Of w = rs1 ∧ rs2Of w = rs2 ∧ finAt 16 w 9 4 = mx ∧ finAt 64 w 3 6 = amt ∧
      fieldAt w 0 3 = 0 ∧ fieldAt w 0 9 = 2 ^ 3 * amt ∧ fieldAt w 0 13 = 2 ^ 3 * amt + 2 ^ 9 * mx ∧
      fieldAt w 9 9 = mx + 2 ^ 4 * rs2 := by
  subst e
  simp only [rdOf, rs1Of, rs2Of, finAt_eq_iff (n := 32) (len := 5) rfl, finAt_eq_iff (n := 16) (len := 4) rfl,
    finAt_eq_iff (n := 64) (len := 6) rfl, opcodeOf, formatR]
  rw [fieldAt_ofNat, fieldAt_ofNat, fieldAt_ofNat, fieldAt_ofNat, fieldAt_ofNat, fieldAt_ofNat, fieldAt_ofNat,
    fieldAt_ofNat, fieldAt_ofNat, fieldAt_ofNat] <;> omega

/-- What the decoder reads from a word of format S whose immediate has `len` bits. -/
theorem fields_formatS (op : Fin 16) {len imm : Nat} (le : len ≤ 28) (small : imm < 2 ^ len) {w : CommandWord}
    (e : w = formatS op imm) : opcodeOf w = op ∧ fieldAt w 0 len = imm ∧ fieldAt w len (28 - len) = 0 := by
  subst e
  have split : 2 ^ 28 = 2 ^ len * 2 ^ (28 - len) := by rw [← pow_add, Nat.add_sub_cancel' le]
  have fits : imm < 2 ^ 28 := small.trans_le (Nat.pow_le_pow_right (by decide) le)
  have word : op.val * 2 ^ 28 + imm < 2 ^ 32 := by omega
  simp only [opcodeOf, formatS, fieldAt_ofNat word]
  refine ⟨by omega, ?_, ?_⟩
  · rw [split, pow_zero, Nat.div_one, Nat.mul_left_comm, Nat.mul_add_mod, Nat.mod_eq_of_lt small]
  · rw [split, Nat.mul_left_comm, Nat.mul_add_div (Nat.two_pow_pos len), Nat.div_eq_of_lt small, Nat.add_zero,
      Nat.mul_mod_left]

/-! ### The round trips (R45 to R52) -/

/-- A legal command is read from its own word: its opcode selects the decoder's row and its must-be-zero fields are
zero. -/
theorem decode_encode {i : Instr} (wf : i.wellFormed = true) : decode (encode i) = .command i := by
  rw [← checked_of_wellFormed wf]
  cases i with
  | xor rd rs1 rs2 =>
    obtain ⟨op, hd, h1, h2, _, _, _, _, zero, _⟩ := fields_formatR 1 rd rs1 rs2 0 0 (w := encode (.xor rd rs1 rs2)) rfl
    simp [decode, op, hd, h1, h2, zero]
  | add rd rs1 rs2 =>
    obtain ⟨op, hd, h1, h2, _, _, _, _, zero, _⟩ := fields_formatR 2 rd rs1 rs2 0 0 (w := encode (.add rd rs1 rs2)) rfl
    simp [decode, op, hd, h1, h2, zero]
  | addm rd rs1 rs2 mx =>
    obtain ⟨op, hd, h1, h2, hm, _, _, zero, _⟩ :=
      fields_formatR 3 rd rs1 rs2 mx 0 (w := encode (.addm rd rs1 rs2 mx)) rfl
    simp [decode, op, hd, h1, h2, hm, zero]
  | rotr rd rs1 amt =>
    obtain ⟨op, hd, h1, _, _, ha, low, _, _, zero⟩ := fields_formatR 4 rd rs1 0 0 amt (w := encode (.rotr rd rs1 amt)) rfl
    simp [decode, op, hd, h1, ha, low, zero]
  | g a b c d x y =>
    have word : 5 * 2 ^ 28 + a.val * 2 ^ 24 + b.val * 2 ^ 20 + c.val * 2 ^ 16 + d.val * 2 ^ 12 + x.val * 2 ^ 8 +
      y.val * 2 ^ 4 < 2 ^ 32 := by omega
    have op : opcodeOf (encode (.g a b c d x y)) = 5 := by rw [opcodeOf, encode, fieldAt_ofNat word]; omega
    have zero : fieldAt (encode (.g a b c d x y)) 0 4 = 0 := by rw [encode, fieldAt_ofNat word]; omega
    have lane (lo : Nat) (z : Fin 16) (h : (5 * 2 ^ 28 + a.val * 2 ^ 24 + b.val * 2 ^ 20 + c.val * 2 ^ 16 +
        d.val * 2 ^ 12 + x.val * 2 ^ 8 + y.val * 2 ^ 4) / 2 ^ lo % 2 ^ 4 = z.val) :
        finAt 16 (encode (.g a b c d x y)) lo 4 = z := by
      rw [finAt_eq_iff (n := 16) (len := 4) rfl, encode, fieldAt_ofNat word, h]
    simp only [decode, op, zero]
    rw [lane 24 a (by omega), lane 20 b (by omega), lane 16 c (by omega), lane 12 d (by omega), lane 8 x (by omega),
      lane 4 y (by omega)]
    rfl
  | round r =>
    obtain ⟨op, imm, zero⟩ := fields_formatS 6 (len := 4) (by decide) r.isLt (w := encode (.round r)) rfl
    simp only [decode, op, zero, (finAt_eq_iff (n := 16) (len := 4) rfl 0 r).2 imm]
    rfl
  | ldchunk k =>
    obtain ⟨op, imm, _⟩ := fields_formatS 8 (len := 28) (by decide) k.isLt (w := encode (.ldchunk k)) rfl
    simp only [decode, op, (finAt_eq_iff (n := 268435456) (len := 28) rfl 0 k).2 imm]
    rfl
  | seed f => cases f <;> decide
  | compress f => cases f <;> decide
  | init => decide
  | feed => decide
  | stdig => decide

/-- Settles O1: the fields the decoder reads from the word of a command are the command's operands. -/
theorem decodeEncodeRoundTrip : Obligations.DecodeEncodeRoundTrip := fun _ => decode_encode

/-- The word of a command it decodes to is the word itself. -/
theorem encode_of_decode {i : Instr} (h : decode w = .command i) : encode i = w := by
  obtain ⟨legal, _⟩ := legal_of_decode h
  obtain ⟨j, e, word, _⟩ := decode_of_not_illegalWord legal
  cases h.symm.trans e
  exact word

/-- Settles O2: a word that decodes is legal, and each row of the decoder reads every bit of a legal word. -/
theorem encodeDecodeRoundTrip : Obligations.EncodeDecodeRoundTrip := fun _ _ h =>
  ⟨encode_of_decode h, (legal_of_decode h).2⟩

/-! ### Illegal words (R51) -/

/-- Settles O3: the decoder rejects R51's words, and a word it rejects is one of them. -/
theorem illegalWordsAreThoseOfTheSpec : Obligations.IllegalWordsAreThoseOfTheSpec :=
  ⟨fun _ => ⟨fun ⟨_, h⟩ => illegalWord_of_decode h, decode_of_illegalWord⟩,
    decode_of_illegalWord (illegalWord_of_unused (.inl rfl))⟩

/-! ### The match/mask rows (R50) -/

theorem fieldAt_eq_zero_iff (w : CommandWord) (lo len : Nat) :
    fieldAt w lo len = 0 ↔ ∀ i < len, w.getLsbD (lo + i) = false := by
  rw [← toNat_extractLsb'_eq_fieldAt, ← BitVec.toNat_zero, BitVec.toNat_inj, BitVec.eq_of_getLsbD_eq_iff]
  exact forall₂_congr fun i lt => by rw [BitVec.getLsbD_extractLsb', decide_eq_true lt, Bool.true_and, BitVec.getLsbD_zero]

/-- A row whose mask is the opcode and some must-be-zero fields selects, of the words of its opcode, those whose fields
are zero. -/
theorem selects_iff_zeros (row : OpcodeRow) (fields : List (Nat × Nat))
    (mask : ∀ i < 32, row.mask.getLsbD i = (decide (28 ≤ i) || fields.any fun f => decide (f.1 ≤ i ∧ i < f.1 + f.2)))
    (below : ∀ f ∈ fields, f.1 + f.2 ≤ 28) (zero : ∀ i < 28, row.matchBits.getLsbD i = false)
    (op : opcodeOf w = opcodeOf row.matchBits) :
    row.selects w = true ↔ ∀ f ∈ fields, fieldAt w f.1 f.2 = 0 := by
  have high (i : Nat) (le : 28 ≤ i) (lt : i < 32) : w.getLsbD i = row.matchBits.getLsbD i := by
    have slice : w.extractLsb' 28 4 = row.matchBits.extractLsb' 28 4 := by
      rw [extractLsb'_eq_iff_fieldAt, toNat_extractLsb'_eq_fieldAt]
      exact op
    have bit := congrArg (BitVec.getLsbD · (i - 28)) slice
    simpa only [BitVec.getLsbD_extractLsb', show i - 28 < 4 by omega, decide_true, Bool.true_and,
      Nat.add_sub_cancel' le] using bit
  simp only [OpcodeRow.selects, beq_iff_eq, BitVec.eq_of_getLsbD_eq_iff, BitVec.getLsbD_and, fieldAt_eq_zero_iff]
  constructor
  · intro h f hf i lt
    have le := below f hf
    have inMask : row.mask.getLsbD (f.1 + i) = true := by
      rw [mask _ (by omega), Bool.or_eq_true, List.any_eq_true]
      exact .inr ⟨f, hf, by simp [lt]⟩
    have bit := h (f.1 + i) (by omega)
    rwa [inMask, Bool.and_true, zero _ (by omega)] at bit
  · intro h i lt
    by_cases le : 28 ≤ i
    · rw [high i le lt, mask i lt, decide_eq_true le, Bool.true_or, Bool.and_true]
    · rw [zero i (by omega), mask i lt, decide_eq_false le, Bool.false_or]
      cases held : fields.any fun f => decide (f.1 ≤ i ∧ i < f.1 + f.2) with
      | false => exact Bool.and_false _
      | true =>
        obtain ⟨f, hf, inField⟩ := List.any_eq_true.1 held
        obtain ⟨le, lt⟩ := of_decide_eq_true inField
        have bit := h f hf (i - f.1) (by omega)
        rw [Nat.add_sub_cancel' le] at bit
        rw [bit, Bool.false_and]

/-- The decoder reads the word as a command of the row's mnemonic, and the row selects it when the command's must-be-zero
fields are zero. -/
def RowReads (w : CommandWord) (row : OpcodeRow) : Prop :=
  ∃ zeros i, ReadsAs w zeros i ∧ i.mnemonic = row.mnemonic ∧ (row.selects w = true ↔ zeros = true)

/-- R50: each row of the table against the decoder's row for the same opcode. -/
theorem rowReads_of_opcode : ∀ row ∈ opcodeRows, opcodeOf w = opcodeOf row.matchBits → RowReads w row := by
  simp only [opcodeRows, List.forall_mem_cons]
  refine ⟨fun op => ⟨_, _, readsAs_xor op, rfl, ?_⟩, fun op => ⟨_, _, readsAs_add op, rfl, ?_⟩,
    fun op => ⟨_, _, readsAs_addm op, rfl, ?_⟩, fun op => ⟨_, _, readsAs_rotr op, rfl, ?_⟩,
    fun op => ⟨_, _, readsAs_g op, rfl, ?_⟩, fun op => ⟨_, _, readsAs_round op, rfl, ?_⟩,
    fun op => ⟨_, _, readsAs_init op, rfl, ?_⟩, fun op => ⟨_, _, readsAs_ldchunk op, rfl, ?_⟩,
    fun op => ⟨_, _, readsAs_seed op, rfl, ?_⟩, fun op => ⟨_, _, readsAs_feed op, rfl, ?_⟩,
    fun op => ⟨_, _, readsAs_compress op, rfl, ?_⟩, fun op => ⟨_, _, readsAs_stdig op, rfl, ?_⟩, nofun⟩
  · simpa using selects_iff_zeros _ [(0, 13)] (by decide) (by decide) (by decide) op
  · simpa using selects_iff_zeros _ [(0, 13)] (by decide) (by decide) (by decide) op
  · simpa using selects_iff_zeros _ [(0, 9)] (by decide) (by decide) (by decide) op
  · simpa using selects_iff_zeros _ [(0, 3), (9, 9)] (by decide) (by decide) (by decide) op
  · simpa using selects_iff_zeros _ [(0, 4)] (by decide) (by decide) (by decide) op
  · simpa using selects_iff_zeros _ [(4, 24)] (by decide) (by decide) (by decide) op
  · simpa using selects_iff_zeros _ [(0, 28)] (by decide) (by decide) (by decide) op
  · simpa using selects_iff_zeros _ [] (by decide) (by decide) (by decide) op
  · simpa using selects_iff_zeros _ [(1, 27)] (by decide) (by decide) (by decide) op
  · simpa using selects_iff_zeros _ [(0, 28)] (by decide) (by decide) (by decide) op
  · simpa using selects_iff_zeros _ [(1, 27)] (by decide) (by decide) (by decide) op
  · simpa using selects_iff_zeros _ [(0, 28)] (by decide) (by decide) (by decide) op

/-- Every opcode in use has its row. -/
theorem exists_row_of_legal (legal : ¬ IllegalWord w) : ∃ row ∈ opcodeRows, opcodeOf w = opcodeOf row.matchBits := by
  have used : 1 ≤ opcodeOf w ∧ opcodeOf w < 13 := by
    by_contra unused
    exact legal (illegalWord_of_unused (by omega))
  obtain ⟨n, e⟩ : ∃ n : Fin 13, opcodeOf w = n := ⟨⟨_, used.2⟩, rfl⟩
  have rows : ∀ n : Fin 13, 1 ≤ n.val → ∃ row ∈ opcodeRows, n.val = opcodeOf row.matchBits := by decide
  rw [e] at used ⊢
  exact rows n used.1

/-- A command can be illegal by a lane address or by its round number alone. -/
theorem illegal?_cases (i : Instr) :
    i.illegal? = none ∨ i.illegal? = some .laneAddress ∨ i.illegal? = some .roundNumber := by
  cases i with
  | xor | add | addm | rotr => rw [Instr.illegal?]; split <;> simp
  | round => rw [Instr.illegal?]; split <;> simp
  | _ => exact .inl rfl

/-- Settles O4: the row of a legal word's opcode selects it, its must-be-zero fields being zero; a row that selects a word
has the word's opcode, and leaves R51 (c) and (d) alone to make it illegal. -/
theorem maskRowsSelectTheirCommands : Obligations.MaskRowsSelectTheirCommands := by
  refine fun w => ⟨fun i h => ?_, fun row mem sel => ?_⟩
  · obtain ⟨legal, _⟩ := legal_of_decode h
    obtain ⟨row, mem, op⟩ := exists_row_of_legal legal
    obtain ⟨zeros, j, reads, name, selects⟩ := rowReads_of_opcode row mem op
    obtain ⟨rfl, wf⟩ := reads.legal.1 legal
    cases h.symm.trans (reads.decodes.trans (checked_of_wellFormed wf))
    exact ⟨row, mem, name.symm, selects.2 rfl⟩
  · have op : opcodeOf w = opcodeOf row.matchBits := by
      rw [opcodeOf, ← toNat_extractLsb'_eq_fieldAt, opcode_of_selects mem sel, toNat_extractLsb'_eq_fieldAt, ← opcodeOf]
    obtain ⟨zeros, i, reads, name, selects⟩ := rowReads_of_opcode row mem op
    obtain rfl := selects.1 sel
    rw [reads.decodes, checked, if_pos rfl]
    rcases illegal?_cases i with e | e | e
    · exact .inl ⟨i, by rw [e], name⟩
    · exact .inr (.inl (by rw [e]))
    · exact .inr (.inr (by rw [e]))

/-- Settles O6, on the words of R55's table. -/
theorem exampleWordsDecode : Obligations.ExampleWordsDecode := by
  unfold Obligations.ExampleWordsDecode
  decide

/-! ### The lane address map (R49) -/

/-- The lane addresses a legal command uses are below 24 (R51 (c)). -/
theorem legal_iff_lt (a : LaneAddr) : LaneAddr.legal a = true ↔ a.val < 24 := decide_eq_true_iff

/-- Settles O7: the map by its table of 32 addresses, and a decoded command is legal. -/
theorem laneAddressMap : Obligations.LaneAddressMap := by
  refine ⟨by decide, by decide, by decide, by decide, fun w rd rs1 rs2 => ⟨?_, ?_⟩⟩
  · rintro (h | h | ⟨mx, h⟩)
    all_goals
      have wf := (legal_of_decode h).2
      simpa [Instr.wellFormed, Instr.illegal?, legal_iff_lt, and_assoc] using wf
  · rintro ⟨amt, h⟩
    have wf := (legal_of_decode h).2
    simpa [Instr.wellFormed, Instr.illegal?, legal_iff_lt] using wf

end Sys2Proof.Machine
end

section
/-! PROOFS. The step (10_state.md R16), entering a fault (60_exceptions.md R117) and the end of a run (43_host_driver.md
R100). -/

namespace Sys2Proof.Machine

variable {s : State}

/-! ### Running a command (R16, R95) -/

theorem runWord_of_decode {w : CommandWord} {i : Instr} (h : decode w = .command i) :
    runWord s w = followDriver i (exec i s) := by
  simp only [runWord, h]

/-- The driver of the host side changes itself alone. -/
theorem followDriver_next (i : Instr) (t : State) : ∃ d, followDriver i (.next t) = .next (t.setDriver d) := by
  rw [followDriver]
  split
  · exact ⟨_, rfl⟩
  · exact ⟨t.driver, rfl⟩

/-- Settles O8: the fetch hands the word to its command, and the driver follows. -/
theorem stepRunsTheFetchedCommand : Obligations.StepRunsTheFetchedCommand := by
  intro s words w i hr hf hb hs hw hd
  have run : step s = followDriver i (exec i s) := by rw [step_eq_runWord hr hf hb hs hw, runWord_of_decode hd]
  exact ⟨run, fun t e => by rw [run, e]; exact followDriver_next i t⟩

/-! ### Where a step stops (R100, R114, R117) -/

theorem step_of_refused (refused : s.refused = true) : step s = .refused .configurationRefused := by
  rw [step, fetchThen, if_pos refused]

theorem step_of_faulted (accepted : s.refused = false) (faulted : s.fault ≠ 0) : step s = .fault (.halted s.fault) := by
  rw [step, fetchThen, if_neg (by simp [accepted]), if_pos faulted]

theorem step_of_unbuilt (accepted : s.refused = false) (ok : s.fault = 0) (unbuilt : s.built = false) :
    step s = .fault .notConstructed := by
  rw [step, fetchThen, if_neg (by simp [accepted]), if_neg (not_not.2 ok), if_pos unbuilt]

theorem step_of_no_stream (accepted : s.refused = false) (ok : s.fault = 0) (built : s.built = true)
    (noStream : s.stream = none) : step s = .fault .noStream := by
  simp [step, fetchThen, accepted, ok, built, noStream]

/-- R100: the three conditions of a final state beside cp at the end of the stream. -/
theorem final_iff : s.final = true ↔
    s.built = true ∧ s.fault = 0 ∧ s.refused = false ∧ ∃ words, s.stream = some words ∧ s.cp = words.length := by
  simp only [State.final, Bool.and_eq_true, beq_iff_eq, Bool.not_eq_true', Option.map_eq_some_iff, and_assoc,
    eq_comm (a := s.cp)]

theorem step_of_no_word {words : List CommandWord} (accepted : s.refused = false) (ok : s.fault = 0)
    (built : s.built = true) (stream : s.stream = some words) (noWord : words[s.cp]? = none) :
    step s = .fault .runEnded := by
  simp [step, fetchThen, accepted, ok, built, stream, noWord]

theorem step_of_final (final : s.final = true) : step s = .fault .runEnded := by
  obtain ⟨built, ok, accepted, words, stream, atEnd⟩ := final_iff.1 final
  exact step_of_no_word accepted ok built stream (List.getElem?_eq_none atEnd.ge)

theorem runEnded_iff : s.runEnded = true ↔ s.final = true ∨ s.fault ≠ 0 ∨ s.refused = true := by
  simp [State.runEnded, or_assoc]

/-- A run that has not ended is not refused (R100). -/
theorem accepted_of_running (running : s.runEnded = false) : s.refused = false := by
  by_contra refused
  cases running.symm.trans (runEnded_iff.2 (.inr (.inr (by simpa using refused))))

theorem final_of_refused (refused : s.refused = true) : s.final = false := by
  simp [State.final, refused]

/-- Settles O14: the conditions under which the fetch stops, taken in their order. -/
theorem endOfRun : Obligations.EndOfRun := by
  refine fun s => ⟨by rw [runEnded_iff, final_iff], step_of_final, fun faulted accepted =>
    step_of_faulted accepted faulted, step_of_refused, fun h => ?_, fun running => ?_, fun running => ?_⟩
  · exact h.elim final_of_faulted final_of_refused
  · exact step_of_unbuilt (accepted_of_running running) (unfaulted_of_running running)
  · exact step_of_no_stream (accepted_of_running running) (unfaulted_of_running running)

/-! ### Entering a fault (R117) -/

/-- A fault entered where none stands writes its code to FAULT and nothing else. -/
theorem enterFault_of_unfaulted (ok : s.fault = 0) (c : FaultCode) : s.enterFault c = { s with fault := c.code } := by
  rw [State.enterFault, if_pos ok]

/-- Settles O11: a step that leaves FAULT nonzero has entered one of three faults, and a faulted block stops. -/
theorem faultEntryIsPrecise : Obligations.FaultEntryIsPrecise := by
  intro s t h faulted
  obtain ⟨accepted, ok, _⟩ := fetched_of_step h
  rcases step_next h with ⟨c, hc, rfl⟩ | ⟨i, _, _, _, rfl⟩
  · refine ⟨?_, ?_, step_of_faulted accepted faulted, final_of_faulted faulted⟩
    · rw [enterFault_of_unfaulted ok]
    · rw [enterFault_of_unfaulted ok]
      rcases hc with rfl | rfl | rfl
      · exact .inl rfl
      · exact .inr (.inl rfl)
      · exact .inr (.inr rfl)
  · exact absurd ok (by simpa [completed_fault] using faulted)

end Sys2Proof.Machine
end

section
/-! PROOFS. XOR, ADD, ADDM and ROTR (40_lane_arithmetic.md R66 to R71). -/

namespace Sys2Proof.Machine

/-! ### The commands on operands that hold values (R66 to R69) -/

section Held

variable {s : State} {rd rs1 rs2 : LaneAddr} {d a b : LaneName} {x y : Word64} (hd : laneOf rd = some d)
  (h1 : laneOf rs1 = some a) (hx : s.lane a = some x)
include hd h1 hx

theorem binaryLane_of_held (h2 : laneOf rs2 = some b) (hy : s.lane b = some y) (op : Word64 → Word64 → Word64)
    (circuit : LaneName → LaneName → LaneName → FieldLevel → FieldLevel) :
    binaryLane rd rs1 rs2 op circuit s = .next (s.writeResult d (op x y) (circuit d a b s.field)) := by
  simp only [binaryLane, withLanes3, hd, h1, h2, withValue_some hx, withValue_some hy]

theorem execAddm_of_held (h2 : laneOf rs2 = some b) (hy : s.lane b = some y) {mx : MsgIndex} {c : Word64}
    (hc : s.m[mx] = some c) :
    execAddm rd rs1 rs2 mx s = .next (s.writeResult d (sum3 x y c) (fieldAddm d a b mx s.field)) := by
  simp only [execAddm, withLanes3, hd, h1, h2, withValue_some hx, withValue_some hy, withValue_some hc]

theorem execRotr_of_held (amt : RotAmount) : execRotr rd rs1 amt s =
    .next (s.writeResult d (rotr x amt.val) (fieldRotr s.params.reuseExploded d a amt.val s.field)) := by
  simp only [execRotr, withLanes2, hd, h1, withValue_some hx]

end Held

/-- Settles O15: XOR reads both operands and then writes their exclusive or. -/
theorem xorCompletes : Obligations.XorCompletes := by
  intro s rd rs1 rs2 d a b x y hd h1 h2 hx hy
  refine ⟨_, binaryLane_of_held hd h1 hx h2 hy _ _, s.writeResult_fault _ _ _, s.writeResult_cp _ _ _,
    ⟨_, s.lane_writeResult_self _ _ _, fun i _ => BitVec.getLsbD_xor⟩, ?_⟩
  rintro rfl
  rw [s.lane_writeResult_self, Option.some.inj (hx.symm.trans hy), BitVec.xor_self]
  rfl

/-- R67: the trimmed sum as an integer. -/
theorem toNat_sum2 (x y : Word64) : (sum2 x y).toNat = (x.toNat + y.toNat) % 2 ^ 64 := BitVec.toNat_ofNat _ _

/-- R68. -/
theorem toNat_sum3 (x y z : Word64) : (sum3 x y z).toNat = (x.toNat + y.toNat + z.toNat) % 2 ^ 64 :=
  BitVec.toNat_ofNat _ _

/-- Settles O16: ADD writes the trimmed sum of its operands. -/
theorem addCompletes : Obligations.AddCompletes := by
  intro s rd rs1 rs2 d a b x y hd h1 h2 hx hy
  exact ⟨_, _, binaryLane_of_held hd h1 hx h2 hy _ _, s.writeResult_fault _ _ _, s.writeResult_cp _ _ _,
    s.lane_writeResult_self _ _ _, toNat_sum2 x y⟩

/-- Settles O17: ADDM writes the trimmed sum of its two lanes and its message lane. -/
theorem addmCompletes : Obligations.AddmCompletes := by
  intro s rd rs1 rs2 mx d a b x y c hd h1 h2 hx hy hc
  exact ⟨_, _, execAddm_of_held hd h1 hx h2 hy hc, s.writeResult_fault _ _ _, s.writeResult_cp _ _ _,
    s.lane_writeResult_self _ _ _, toNat_sum3 x y c⟩

/-- Settles O18: ROTR writes the rotated operand. -/
theorem rotrCompletes : Obligations.RotrCompletes := by
  intro s rd rs1 amt d a x hd h1 hx
  exact ⟨_, _, execRotr_of_held hd h1 hx amt, s.writeResult_fault _ _ _, s.writeResult_cp _ _ _,
    s.lane_writeResult_self _ _ _, fun _ lt => getLsbD_rotr x amt.val lt⟩

/-! ### The laws of rotation (R71) -/

/-- Two lanes are equal when their 64 bits are. -/
theorem word_ext {x y : Word64} (h : ∀ i < 64, x.getLsbD i = y.getLsbD i) : x = y :=
  BitVec.eq_of_getLsbD_eq h

theorem rotr_rotr (x : Word64) (a b : Nat) : rotr (rotr x a) b = rotr x ((a + b) % 64) := by
  refine word_ext fun i lt => ?_
  rw [getLsbD_rotr _ _ lt, getLsbD_rotr _ _ (Nat.mod_lt _ (by decide)), getLsbD_rotr _ _ lt]
  congr 1
  omega

theorem rotr_zero (x : Word64) : rotr x 0 = x := by
  refine word_ext fun i lt => ?_
  rw [getLsbD_rotr _ _ lt, Nat.add_zero, Nat.mod_eq_of_lt lt]

theorem rotr_xor (x y : Word64) (k : Nat) : rotr (x ^^^ y) k = rotr x k ^^^ rotr y k := by
  refine word_ext fun i lt => ?_
  simp only [BitVec.getLsbD_xor, getLsbD_rotr _ _ lt]

/-- Settles O19, on bits: a rotation re-indexes them modulo 64. -/
theorem rotationLaws : Obligations.RotationLaws := by
  refine ⟨rotr_rotr, fun x a lt => ?_, rotr_xor⟩
  rw [rotr_rotr, Nat.add_sub_cancel' lt.le, Nat.mod_self, rotr_zero]

end Sys2Proof.Machine
end

section
/-! PROOFS. What each command leaves unchanged (40_lane_arithmetic.md, 41_mix_round.md, 42_compression.md), and which
command writes what (10_state.md R11 to R14, 20_memory.md R30). -/

namespace Sys2Proof.Machine

variable {s t : State}

/-! ### Frames of the field level -/

section Field

variable (reuse : Bool) (f : FieldLevel)

/-- The field level differs in the working vector's representations and the arena alone. -/
structure SameButV (f g : FieldLevel) : Prop where
  h : g.h = f.h
  m : g.m = f.m
  out : g.out = f.out

theorem SameButV.refl (f : FieldLevel) : SameButV f f := ⟨rfl, rfl, rfl⟩

theorem SameButV.trans {f g k : FieldLevel} (h₁ : SameButV f g) (h₂ : SameButV g k) : SameButV f k :=
  ⟨h₂.h.trans h₁.h, h₂.m.trans h₁.m, h₂.out.trans h₁.out⟩

theorem sameButV_fieldHalfMix (a b c d : WorkIndex) (x : MsgIndex) (j k : RotAmount) :
    SameButV f (fieldHalfMix reuse a b c d x j k f) := ⟨rfl, rfl, rfl⟩

theorem sameButV_fieldMix (a b c d : WorkIndex) (x y : MsgIndex) : SameButV f (fieldMix reuse a b c d x y f) := by
  rw [fieldMix_eq_halves]
  exact (sameButV_fieldHalfMix reuse f a b c d x 32 24).trans (sameButV_fieldHalfMix ..)

/-- The four lanes and the two message lanes of the eight G calls of a round, in order (R78). -/
def roundCalls (q : Vector (Fin 16) 16) : List ((Fin 16 × Fin 16 × Fin 16 × Fin 16) × MsgIndex × MsgIndex) :=
  [((0, 4, 8, 12), q[0], q[1]), ((1, 5, 9, 13), q[2], q[3]), ((2, 6, 10, 14), q[4], q[5]),
    ((3, 7, 11, 15), q[6], q[7]), ((0, 5, 10, 15), q[8], q[9]), ((1, 6, 11, 12), q[10], q[11]),
    ((2, 7, 8, 13), q[12], q[13]), ((3, 4, 9, 14), q[14], q[15])]

/-- The field level of one G call. -/
def fieldCall (f : FieldLevel) (c : (Fin 16 × Fin 16 × Fin 16 × Fin 16) × MsgIndex × MsgIndex) : FieldLevel :=
  fieldMix reuse c.1.1 c.1.2.1 c.1.2.2.1 c.1.2.2.2 c.2.1 c.2.2 f

theorem fieldRound_eq_foldl (q : Vector (Fin 16) 16) :
    fieldRound reuse q f = (roundCalls q).foldl (fieldCall reuse) f := by
  simp only [roundCalls, List.foldl_cons, List.foldl_nil, fieldCall, fieldRound]

/-- A relation that every step of a fold keeps, from a start it is reflexive and transitive on. -/
theorem foldl_rel {α β : Type} {R : β → β → Prop} (refl : ∀ b, R b b) (trans : ∀ {a b c}, R a b → R b c → R a c)
    {g : β → α → β} (step : ∀ b a, R b (g b a)) (l : List α) (b : β) : R b (l.foldl g b) := by
  induction l generalizing b with
  | nil => exact refl b
  | cons a l ih => exact trans (step b a) (ih _)

theorem sameButV_fieldRound (q : Vector (Fin 16) 16) : SameButV f (fieldRound reuse q f) := by
  rw [fieldRound_eq_foldl]
  exact foldl_rel SameButV.refl SameButV.trans (fun f _ => sameButV_fieldMix reuse f ..) _ f

theorem sameButV_fieldSeed (upper : Vector Word64 8) : SameButV f (fieldSeed upper f) := by
  constructor <;> simp only [fieldSeed]

/-- The field level differs in the representations of v and h and the arena alone. -/
structure SameButVH (f g : FieldLevel) : Prop where
  m : g.m = f.m
  out : g.out = f.out

theorem SameButVH.refl (f : FieldLevel) : SameButVH f f := ⟨rfl, rfl⟩

theorem SameButVH.trans {f g k : FieldLevel} (h₁ : SameButVH f g) (h₂ : SameButVH g k) : SameButVH f k :=
  ⟨h₂.m.trans h₁.m, h₂.out.trans h₁.out⟩

theorem SameButV.sameButVH {f g : FieldLevel} (h : SameButV f g) : SameButVH f g := ⟨h.m, h.out⟩

theorem sameButVH_fieldFeedLane (i : Fin 8) : SameButVH f (fieldFeedLane reuse f i) := ⟨rfl, rfl⟩

theorem sameButVH_fieldFeed : SameButVH f (fieldFeed reuse f) := by
  have lanes := foldl_rel SameButVH.refl SameButVH.trans (sameButVH_fieldFeedLane reuse) feedOrder f
  rw [fieldFeed]
  generalize feedOrder.foldl (fieldFeedLane reuse) f = g at lanes ⊢
  exact ⟨lanes.m, lanes.out⟩

theorem sameButVH_fieldCompress (p : Config.Params) (upper : Vector Word64 8) (rows : List (Vector (Fin 16) 16)) :
    SameButVH f (fieldCompress p upper rows f) := by
  have seed := (sameButV_fieldSeed f upper).sameButVH
  have rounds : SameButVH (fieldSeed upper f) (rows.foldl (fun f q => fieldRound p.reuseExploded q f) _) :=
    foldl_rel SameButVH.refl SameButVH.trans (fun f q => (sameButV_fieldRound p.reuseExploded f q).sameButVH) rows _
  rw [fieldCompress]
  exact seed.trans (rounds.trans (sameButVH_fieldFeed p.reuseExploded _))

end Field

/-! ### The padding view (20_memory.md R32) -/

theorem bufByte_congr (len : t.len = s.len) (buf : t.buf = s.buf) (a : Nat) : t.bufByte a = s.bufByte a := by
  rw [State.bufByte, State.bufByte, State.bufLen, State.bufLen, len, buf]

theorem SameHostSide.bufByte (h : SameHostSide s t) (a : Nat) : t.bufByte a = s.bufByte a :=
  bufByte_congr h.len h.buf a

/-! ### A command completes, or FAULT alone changes (60_exceptions.md R117) -/

theorem enterFault_eq (s : State) (c : FaultCode) : s.enterFault c = { s with fault := (s.enterFault c).fault } := rfl

theorem completed_driver (i : Instr) (s : State) : (completed i s).driver = s.driver := by
  cases i <;> simp [completed]

theorem completed_t {i : Instr} (h : ∀ k, i ≠ .ldchunk k) (s : State) : (completed i s).t = s.t := by
  cases i with
  | ldchunk k => exact absurd rfl (h k)
  | _ => simp [completed]

theorem completed_out {i : Instr} (h : i ≠ .stdig) (s : State) : (completed i s).out = s.out := by
  cases i with
  | stdig => exact absurd rfl h
  | _ => simp [completed]

/-- A lane address names no message lane, so that a lane command leaves m. -/
theorem writeResult_laneAt_m (rd : LaneAddr) (x : Word64) (f : FieldLevel) :
    (s.writeResult (laneAt rd) x f).m = s.m := by
  cases e : laneAt rd with
  | m i => exact absurd e (laneAt_ne_message rd i)
  | _ => rfl

theorem put_laneAt_m (rd : LaneAddr) (f : FieldLevel) (r : LaneRep × Arena) : (f.put (laneAt rd) r).m = f.m := by
  cases e : laneAt rd with
  | m i => exact absurd e (laneAt_ne_message rd i)
  | _ => rfl

/-- m and its representations are LDCHUNK's (R13). -/
theorem completed_m {i : Instr} (h : ∀ k, i ≠ .ldchunk k) (s : State) :
    (completed i s).m = s.m ∧ (completed i s).field.m = s.field.m := by
  cases i with
  | ldchunk k => exact absurd rfl (h k)
  | xor rd | add rd | addm rd | rotr rd =>
    exact ⟨writeResult_laneAt_m rd _ _, by rw [completed, State.writeResult_field]; exact put_laneAt_m rd _ _⟩
  | g => simp [completed, (sameButV_fieldMix ..).m]
  | round => simp [completed, (sameButV_fieldRound ..).m]
  | seed => simp [completed, (sameButV_fieldSeed ..).m]
  | feed => simp [completed, (sameButVH_fieldFeed ..).m]
  | compress => simp [completed, (sameButVH_fieldCompress ..).m]
  | init => simp [completed, fieldInit]
  | stdig => simp [completed, fieldStore]

/-- The output wires are STDIG's (R87). -/
theorem completed_field_out {i : Instr} (h : i ≠ .stdig) (s : State) : (completed i s).field.out = s.field.out := by
  cases i with
  | stdig => exact absurd rfl h
  | xor rd | add rd | addm rd | rotr rd =>
    rw [completed, State.writeResult_field]
    exact FieldLevel.put_out ..
  | g => simp [completed, (sameButV_fieldMix ..).out]
  | round => simp [completed, (sameButV_fieldRound ..).out]
  | seed => simp [completed, (sameButV_fieldSeed ..).out]
  | feed => simp [completed, (sameButVH_fieldFeed ..).out]
  | compress => simp [completed, (sameButVH_fieldCompress ..).out]
  | init => simp [completed, fieldInit]
  | ldchunk => simp [completed, fieldLoad]

/-- A command that does not raise completes with the state `completed`, legal; else FAULT alone changes. -/
theorem exec_next_cases {i : Instr} (h : exec i s = .next t) :
    (i.wellFormed = true ∧ t = completed i s) ∨ ∃ c, t = s.enterFault c := by
  cases exec_cases i s with
  | illegal _ eq => exact .inr ⟨_, Host.Outcome.next.inj (h.symm.trans eq)⟩
  | unwritten _ _ eq => exact .inr ⟨_, Host.Outcome.next.inj (h.symm.trans eq)⟩
  | range _ _ _ eq => exact .inr ⟨_, Host.Outcome.next.inj (h.symm.trans eq)⟩
  | completes wf _ _ eq => exact .inl ⟨wf, Host.Outcome.next.inj (h.symm.trans eq)⟩

/-! ### The lane commands -/

/-- XOR, ADD, ADDM and ROTR with destination rd. -/
def WritesLane (rd : LaneAddr) (i : Instr) : Prop :=
  (∃ rs1 rs2, i = .xor rd rs1 rs2) ∨ (∃ rs1 rs2, i = .add rd rs1 rs2) ∨ (∃ rs1 rs2 mx, i = .addm rd rs1 rs2 mx) ∨
    ∃ rs1 amt, i = .rotr rd rs1 amt

/-- The four lane commands complete alike: one lane written, one representation put. -/
theorem completed_of_writesLane {rd : LaneAddr} {i : Instr} (h : WritesLane rd i) (s : State) :
    ∃ x r, completed i s = s.writeResult (laneAt rd) x (s.field.put (laneAt rd) r) := by
  rcases h with ⟨rs1, rs2, rfl⟩ | ⟨rs1, rs2, rfl⟩ | ⟨rs1, rs2, mx, rfl⟩ | ⟨rs1, amt, rfl⟩ <;> exact ⟨_, _, rfl⟩

theorem laneOf_of_wellFormed {rd : LaneAddr} {i : Instr} (h : WritesLane rd i) (wf : i.wellFormed = true) :
    laneOf rd = some (laneAt rd) := by
  refine laneOf_of_legal ?_
  rcases h with ⟨rs1, rs2, rfl⟩ | ⟨rs1, rs2, rfl⟩ | ⟨rs1, rs2, mx, rfl⟩ | ⟨rs1, amt, rfl⟩ <;>
    simp_all [Instr.wellFormed, Instr.illegal?]

/-- Settles O20: a lane command that completes writes the one lane rd names; one that raises writes FAULT alone. -/
theorem laneCommandFrame : Obligations.LaneCommandFrame := by
  intro s t rd rs1 rs2 mx amt i hi h
  have writes : WritesLane rd i := by
    rcases hi with rfl | rfl | rfl | rfl
    · exact .inl ⟨_, _, rfl⟩
    · exact .inr (.inl ⟨_, _, rfl⟩)
    · exact .inr (.inr (.inl ⟨_, _, _, rfl⟩))
    · exact .inr (.inr (.inr ⟨_, _, rfl⟩))
  rcases exec_next_cases h with ⟨wf, rfl⟩ | ⟨c, rfl⟩
  · have host := completed_sameHostSide i s
    obtain ⟨x, r, e⟩ := completed_of_writesLane writes s
    rw [e] at host ⊢
    refine ⟨fun n ne => ?_, writeResult_laneAt_m rd _ _, by simp, by simp, fun a => by simp, host.bufByte, host, by simp,
      .inl (by simp)⟩
    have ne : n ≠ laneAt rd := fun eq => ne (eq ▸ laneOf_of_wellFormed writes wf)
    exact ⟨s.lane_writeResult_ne ne _ _, by simp [FieldLevel.rep_put_ne _ _ ne]⟩
  · exact ⟨fun n _ => ⟨by simp, rfl⟩, rfl, rfl, rfl, fun _ => rfl, fun _ => rfl, enterFault_sameHostSide s c, rfl,
      .inr (enterFault_eq s c)⟩

/-! ### The commands of the working vector -/

/-- Settles O36: G, ROUND and SEED that complete replace v and its representations; one that raises writes FAULT alone. -/
theorem workingVectorCommandFrame : Obligations.WorkingVectorCommandFrame := by
  intro s t i a b c d x y r f hi h
  rcases exec_next_cases h with ⟨_, rfl⟩ | ⟨c, rfl⟩
  · have host := completed_sameHostSide i s
    have chain : (completed i s).h = s.h ∧ (completed i s).field.h = s.field.h := by
      rcases hi with rfl | rfl | rfl
      · simp [completed, (sameButV_fieldMix ..).h]
      · simp [completed, (sameButV_fieldRound ..).h]
      · simp [completed, (sameButV_fieldSeed ..).h]
    have noLoad : ∀ k, i ≠ .ldchunk k := by rcases hi with rfl | rfl | rfl <;> simp
    have noStore : i ≠ .stdig := by rcases hi with rfl | rfl | rfl <;> simp
    exact ⟨chain.1, (completed_m noLoad s).1, completed_t noLoad s, chain.2, (completed_m noLoad s).2,
      completed_field_out noStore s, fun a => by rw [completed_out noStore s], host.bufByte, host, completed_driver i s,
      .inl (completed_fault i s)⟩
  · exact ⟨rfl, rfl, rfl, rfl, rfl, rfl, fun _ => rfl, fun _ => rfl, enterFault_sameHostSide s c, rfl,
      .inr (enterFault_eq s c)⟩

/-! ### The sequencing commands -/

/-- Settles O37: each of the five replaces its own registers; one that raises writes FAULT alone. -/
theorem chainingCommandFrame : Obligations.ChainingCommandFrame := by
  intro s t i k f hi h
  rcases exec_next_cases h with ⟨_, rfl⟩ | ⟨c, rfl⟩
  · have host := completed_sameHostSide i s
    refine ⟨?_, ?_, ?_, ?_, host.bufByte, host, completed_driver i s, .inl (completed_fault i s)⟩
    · rintro (rfl | rfl | rfl) <;> simp [completed, fieldInit, fieldLoad, fieldStore]
    · rintro (rfl | rfl) <;> simp [completed, fieldLoad, fieldStore]
    · intro ne
      have other : ∀ k', i ≠ .ldchunk k' := by rcases hi with rfl | rfl | rfl | rfl | rfl <;> simp_all
      exact ⟨(completed_m other s).1, (completed_m other s).2, completed_t other s⟩
    · exact fun ne => ⟨completed_field_out ne s, fun a => by rw [completed_out ne s]⟩
  · exact ⟨fun _ => ⟨rfl, rfl⟩, fun _ => ⟨rfl, rfl⟩, fun _ => ⟨rfl, rfl, rfl⟩, fun _ => ⟨rfl, fun _ => rfl⟩,
      fun _ => rfl, enterFault_sameHostSide s c, rfl, .inr (enterFault_eq s c)⟩

/-! ### Who writes what (R11 to R14, R30) -/

/-- Overwriting lanes takes a value from none. -/
theorem getElem_overwrite_ne_none {lanes : List (Fin 16)} {words : Vector Word64 16} {o : Vector (Option Word64) 16}
    {i : Fin 16} (held : o[i] ≠ none) : (overwrite lanes words o)[i] ≠ none := by
  rw [overwrite_eq_patch, getElem_patch]
  split
  · simp
  · exact held

/-- A command that completes takes a value from no lane but, where it is FEED or COMPRESS, from a lane of v. -/
theorem lane_completed_none {i : Instr} {n : LaneName} (lost : (completed i s).lane n = none) (held : s.lane n ≠ none) :
    (∃ j, n = .v j) ∧ (i = .feed ∨ ∃ f, i = .compress f) := by
  cases i with
  | xor rd | add rd | addm rd | rotr rd =>
    rw [completed] at lost
    by_cases eq : n = laneAt rd
    · subst eq
      cases lost.symm.trans (s.lane_writeResult_self _ _ _)
    · exact absurd ((s.lane_writeResult_ne eq _ _).symm.trans lost) held
  | g a b c d x y =>
    simp only [completed, State.lane_advance, State.lane_setField] at lost
    cases n with
    | v j => exact absurd lost (getElem_overwrite_ne_none held)
    | h j | m j => simp_all [State.lane]
  | feed | compress f => cases n <;> simp_all [completed, State.lane]
  | round | init | ldchunk | seed | stdig => cases n <;> simp_all [completed, State.lane]

/-- Settles O38, for a command that completes by the register each one writes, and for one that raises by R117. -/
theorem whoWritesWhat : Obligations.WhoWritesWhat := by
  intro s t i h
  rcases exec_next_cases h with ⟨_, rfl⟩ | ⟨c, rfl⟩
  · refine ⟨fun changed => ?_, fun changed => ?_, fun n => lane_completed_none⟩
    · by_contra other
      have other : ∀ k, i ≠ .ldchunk k := fun k e => other ⟨k, e⟩
      exact changed.elim (fun ne => ne (completed_m other s).1) fun ne => ne (completed_t other s)
    · by_contra other
      exact changed (completed_out other s)
  · refine ⟨fun changed => ?_, fun changed => absurd rfl changed, fun n lost held => ?_⟩
    · exact changed.elim (fun ne => absurd rfl ne) fun ne => absurd rfl ne
    · exact absurd ((s.lane_enterFault n c).symm.trans lost) held

end Sys2Proof.Machine
end

section
/-! PROOFS. G and ROUND complete (41_mix_round.md R76, R78), and the mix function on four distinct lanes. -/

namespace Sys2Proof.Machine

/-! ### G (R76) -/

/-- A mix call gives its own lanes the values it gives them in any vector that agrees on those lanes. -/
theorem getElem_mixCall_congr {c : MixCall} {w v : Vector Word64 16} (agree : ∀ i ∈ laneSet c.1, w[i] = v[i])
    {i : Fin 16} (mem : i ∈ laneSet c.1) : (mixCall v c)[i] = (mixCall w c)[i] := by
  rw [mixCall_eq_patch agree, getElem_patch_of_mem mem]

theorem getElem_wordsOf_of_some {n : Nat} {lanes : Vector (Option Word64) n} {i : Fin n} {x : Word64}
    (held : lanes[i] = some x) : (wordsOf lanes)[i] = x := by
  have held : lanes[i.val] = some x := held
  simp [wordsOf, held]

/-- Settles O21: G completes, and its mix call, made on the vector of all the values v holds, gives the four lanes what
it gives them from their own values. -/
theorem mixCommandCompletes : Obligations.MixCommandCompletes := by
  intro s a b c d x y v mx my ha hb hc hd hx hy
  have completes : exec (.g a b c d x y) s = .next (completed (.g a b c d x y) s) :=
    exec_eq_completed rfl (by simp [OperandUnwritten, ha, hb, hc, hd, hx, hy]) (fun out => out)
  have agree : ∀ i ∈ laneSet (a, b, c, d), v[i] = (wordsOf s.v)[i] := by
    intro i mem
    have held : s.v[i] = some v[i] := by fin_cases mem <;> assumption
    exact (getElem_wordsOf_of_some held).symm
  have lanes : (completed (.g a b c d x y) s).v = overwrite [a, b, c, d] (mix (wordsOf s.v) a b c d mx my) s.v := by
    simp only [completed, State.advance_v, State.setField_v, State.setV_v, mixLanes, hx, hy, Option.getD_some]
  refine ⟨_, completes, completed_fault _ s, completed_cp _ s, fun i mem => ?_, fun i mem => ?_⟩
  · rw [lanes, getElem_overwrite_of_mem mem]
    exact congrArg some (getElem_mixCall_congr (c := ((a, b, c, d), mx, my)) agree mem)
  · rw [lanes, overwrite_eq_patch, getElem_patch_of_notMem mem]

/-! ### The mix function on distinct lanes (R76) -/

/-- R67: the trimmed sum is the sum of words. -/
theorem sum2_eq_add (x y : Word64) : sum2 x y = x + y := by
  apply BitVec.eq_of_toNat_eq
  rw [toNat_sum2, BitVec.toNat_add]

theorem sum3_eq_add (x y z : Word64) : sum3 x y z = x + y + z := by
  apply BitVec.eq_of_toNat_eq
  rw [toNat_sum3, BitVec.toNat_add, BitVec.toNat_add, Nat.mod_add_mod]

theorem rotr_eq_rotateRight (x : Word64) (k : Nat) : rotr x k = x.rotateRight k := rfl

/-- The four lanes set to values. -/
def setLanes (v : Vector Word64 16) (a b c d : Fin 16) (xa xb xc xd : Word64) : Vector Word64 16 :=
  (((v.set a xa).set b xb).set c xc).set d xd

/-- What is set last stays. -/
theorem setLanes_setLanes (v : Vector Word64 16) (a b c d : Fin 16) (xa xb xc xd ya yb yc yd : Word64) :
    setLanes (setLanes v a b c d xa xb xc xd) a b c d ya yb yc yd = setLanes v a b c d ya yb yc yd := by
  refine ext_lanes fun i => ?_
  simp only [setLanes, getElem_set_lane]
  split_ifs <;> rfl

section Distinct

variable {a b c d : Fin 16} (ab : a ≠ b) (ac : a ≠ c) (ad : a ≠ d) (bc : b ≠ c) (bd : b ≠ d) (cd : c ≠ d)
include ab ac ad bc bd cd

theorem getElem_setLanes (v : Vector Word64 16) (xa xb xc xd : Word64) :
    (setLanes v a b c d xa xb xc xd)[a] = xa ∧ (setLanes v a b c d xa xb xc xd)[b] = xb ∧
      (setLanes v a b c d xa xb xc xd)[c] = xc ∧ (setLanes v a b c d xa xb xc xd)[d] = xd := by
  simp only [setLanes, getElem_set_lane, if_true, if_false, ab.symm, ac.symm, ad.symm, bc.symm, bd.symm, cd.symm,
    and_self]

/-- Half a mix call, its four steps written out. -/
theorem halfMix_of_distinct (v : Vector Word64 16) (m : Word64) (j k : RotAmount) :
    let a1 := v[a] + v[b] + m
    let d1 := (v[d] ^^^ a1).rotateRight j.val
    let c1 := v[c] + d1
    let b1 := (v[b] ^^^ c1).rotateRight k.val
    halfMix v a b c d m j k = setLanes v a b c d a1 b1 c1 d1 := by
  intro a1 d1 c1 b1
  have steps : halfMix v a b c d m j k = (((v.set a a1).set d d1).set c c1).set b b1 := by
    simp only [halfMix, getElem_set_lane, sum2_eq_add, sum3_eq_add, rotr_eq_rotateRight, if_true, if_false, ab, ac, ad,
      bc.symm, bd.symm, cd.symm, a1, d1, c1, b1]
  rw [steps]
  refine ext_lanes fun i => ?_
  simp only [setLanes, getElem_set_lane]
  by_cases eb : b = i
  · subst eb; simp [bc.symm, bd.symm]
  · by_cases ed : d = i
    · subst ed; simp [bd, cd]
    · simp [eb, ed]

end Distinct

/-- Settles O22: each half of the mix function does its four steps, the second on the lanes the first wrote. -/
theorem mixOfDistinctLanes : Obligations.MixOfDistinctLanes := by
  intro v a b c d mx my distinct a1 d1 c1 b1 a2 d2 c2 b2
  simp only [List.nodup_cons, List.mem_cons, List.not_mem_nil, or_false, not_or, List.nodup_nil, and_true,
    not_false_eq_true] at distinct
  obtain ⟨⟨ab, ac, ad⟩, ⟨bc, bd⟩, cd⟩ := distinct
  obtain ⟨ha, hb, hc, hd⟩ := getElem_setLanes ab ac ad bc bd cd v a1 b1 c1 d1
  calc mix v a b c d mx my
      = halfMix (setLanes v a b c d a1 b1 c1 d1) a b c d my 16 63 := by
        rw [mix_eq_halfMix, halfMix_of_distinct ab ac ad bc bd cd v]
        rfl
    _ = setLanes (setLanes v a b c d a1 b1 c1 d1) a b c d a2 b2 c2 d2 := by
        rw [halfMix_of_distinct ab ac ad bc bd cd, ha, hb, hc, hd]
        rfl
    _ = (((v.set a a2).set b b2).set c c2).set d d2 := setLanes_setLanes ..

/-! ### ROUND (R78) -/

/-- A ROUND on a written vector, with a written message block. -/
theorem exec_round_written {s : State} {r : RoundNumber} {v m : Vector Word64 16} (lt : r.val < 12)
    (hv : s.v = written v) (hm : s.m = written m) : exec (.round r) s =
      .next ((s.setV (written (roundWords s.params r.val m v))).setField
        (fieldRound s.params.reuseExploded (sigmaRow s.params r.val) s.field)).advance := by
  have completes : exec (.round r) s = .next (completed (.round r) s) :=
    exec_eq_completed (by simp [Instr.wellFormed, Instr.illegal?, lt]) (by simp [OperandUnwritten, hv, hm])
      (fun out => out)
  rw [completes, completed, hv, hm, wordsOf_written, wordsOf_written]

/-- Settles O24: a round is its eight mix calls, the columns first. -/
theorem roundCompletes : Obligations.RoundCompletes := by
  intro s r v m lt hv hm
  refine ⟨_, exec_round_written lt hv hm, by simp, by simp, ?_⟩
  simp only [State.advance_v, State.setField_v, State.setV_v, roundWords, columns, diagonals, sigmaRow, mixCalls,
    List.foldl_cons, List.foldl_nil]

end Sys2Proof.Machine
end

section
/-! PROOFS. INIT, SEED, FEED, COMPRESS and LDCHUNK complete (42_compression.md R81 to R85), and the byte counter
and the padding view (20_memory.md R32). -/

namespace Sys2Proof.Machine

/-! ### INIT (R81) -/

theorem exec_init (s : State) : exec .init s = .next (completed .init s) :=
  exec_eq_completed rfl (fun un => un) (fun out => out)

theorem completed_init_h (s : State) : (completed .init s).h = written (initWords s.params) := by
  simp only [completed, State.advance_h, State.setField_h, State.setH_h]

/-- The parameter word, as R81 writes it. -/
theorem paramWord_eq : Config.paramWord = 0x01011020 := by decide

/-- Settles O27: INIT reads nothing, and writes IV with the parameter word in its first lane. -/
theorem initCompletes : Obligations.InitCompletes := by
  intro s
  have first : (completed .init s).h[0] = some (s.params.iv[0] ^^^ 0x01011020) := by
    simp [completed_init_h, initWords, paramWord_eq]
  refine ⟨_, exec_init s, completed_fault _ s, completed_cp _ s, first, fun i ne => ?_, fun standard => ?_⟩
  · have ne : 0 ≠ i.val := fun e => ne (Fin.ext e.symm)
    simp [completed_init_h, initWords, ne]
  · rw [first, standard]
    decide

/-! ### SEED, FEED and COMPRESS on registers that hold values (R83 to R85) -/

section Held

variable {s : State} {h : Vector Word64 8} {v m : Vector Word64 16} {c : Counter}

theorem exec_seed_held (hh : s.h = written h) (ht : s.t = some c) (f : Bool) : exec (.seed f) s =
    .next ((s.setV (written (seedWords s.params h c f))).setField
      (fieldSeed (seedUpper s.params c f) s.field)).advance := by
  rw [exec_eq_completed (i := .seed f) rfl (by simp [OperandUnwritten, hh, ht]) (fun out => out), completed,
    hh, ht, wordsOf_written, Option.getD_some]

theorem exec_feed_held (hh : s.h = written h) (hv : s.v = written v) : exec .feed s =
    .next (((s.setH (written (feedWords h v))).setV (unwrittenLanes 16)).setField
      (fieldFeed s.params.reuseExploded s.field)).advance := by
  rw [exec_eq_completed (i := .feed) rfl (by simp [OperandUnwritten, hh, hv]) (fun out => out), completed,
    hh, hv, wordsOf_written, wordsOf_written]

theorem exec_compress_held (hh : s.h = written h) (hm : s.m = written m) (ht : s.t = some c) (f : Bool) :
    exec (.compress f) s =
      .next (((s.setH (written (compressWords s.params h m c f))).setV (unwrittenLanes 16)).setField
        (fieldCompress s.params (seedUpper s.params c f) (scheduleRows s.params) s.field)).advance := by
  rw [exec_eq_completed (i := .compress f) rfl (by simp [OperandUnwritten, hh, hm, ht]) (fun out => out), completed,
    hh, hm, ht, wordsOf_written, wordsOf_written, Option.getD_some]

end Held

theorem getElem_unwrittenLanes (i : Fin 16) : (unwrittenLanes 16)[i] = none := by simp [unwrittenLanes]

/-- The lower half of the counter as a number (R83). -/
theorem counterLow_eq (c : Counter) : counterLow c = BitVec.ofNat 64 (c.toNat % 2 ^ 64) := by
  apply BitVec.eq_of_toNat_eq
  simp [counterLow]

theorem counterHigh_eq (c : Counter) : counterHigh c = BitVec.ofNat 64 (c.toNat / 2 ^ 64) := by
  apply BitVec.eq_of_toNat_eq
  simp [counterHigh, Nat.shiftRight_eq_div_pow]

/-- The lower lanes of the seeded vector are h, the upper ones those of `seedUpper`. -/
theorem getElem_seedWords_low (p : Config.Params) (h : Vector Word64 8) (c : Counter) (f : Bool) (i : Fin 8) :
    (seedWords p h c f)[i.val] = h[i] := by
  simp [seedWords]

theorem getElem_seedWords_high (p : Config.Params) (h : Vector Word64 8) (c : Counter) (f : Bool) (i : Fin 8) :
    (seedWords p h c f)[i.val + 8] = (seedUpper p c f)[i] := by
  simp [seedWords]

/-- Settles O31: SEED writes the seeded vector, whose upper lanes are listed one by one. -/
theorem seedCompletes : Obligations.SeedCompletes := by
  intro s f h c hh ht
  refine ⟨_, exec_seed_held hh ht f, by simp, by simp, fun i => ?_, fun i => ?_, ?_⟩
  · simp [getElem_seedWords_low]
  · have upper := getElem_seedWords_high s.params h c f ⟨i.val, by omega⟩
    simp only [State.advance_v, State.setField_v, State.setV_v, getElem_written, upper]
    fin_cases i <;> rfl
  · simp only [State.advance_v, State.setField_v, State.setV_v, getElem_written, ← counterLow_eq, ← counterHigh_eq]
    refine ⟨?_, ?_, ?_, ?_⟩
    · exact congrArg some (getElem_seedWords_high s.params h c f 4)
    · exact congrArg some (getElem_seedWords_high s.params h c f 5)
    · refine congrArg some ((getElem_seedWords_high s.params h c f 6).trans ?_)
      cases f
      · rfl
      · exact BitVec.xor_allOnes
    · exact congrArg some (getElem_seedWords_high s.params h c f 7)

/-- Settles O32: FEED writes the feed-forward to h and takes the values from v. -/
theorem feedCompletes : Obligations.FeedCompletes := by
  intro s h v hh hv
  exact ⟨_, exec_feed_held hh hv, by simp, by simp, fun i => by simp [feedWords], fun i => by simp [unwrittenLanes]⟩

/-- Settles O33: COMPRESS writes the feed-forward of the seeded vector after its rounds. -/
theorem compressCompletes : Obligations.CompressCompletes := by
  intro s f h m c hh hm ht
  exact ⟨_, exec_compress_held hh hm ht f, by simp, by simp, by simp [compressWords, allRounds],
    fun i => by simp [unwrittenLanes]⟩

/-! ### LDCHUNK (R82, 20_memory.md R32) -/

section Chunk

variable {s : State} {k : ChunkIndex}

theorem exec_ldchunk_inside (inside : 128 * k.val < s.bufLen) :
    exec (.ldchunk k) s = .next (completed (.ldchunk k) s) :=
  exec_eq_completed rfl (fun un => un) (Nat.not_le.2 inside)

theorem exec_ldchunk_beyond (beyond : s.bufLen ≤ 128 * k.val) : exec (.ldchunk k) s = raise .chunkRange s :=
  if_pos beyond

theorem completed_ldchunk_t (k : ChunkIndex) (s : State) :
    (completed (.ldchunk k) s).t = some (chunkCounter s k.val) := by
  simp only [completed, State.advance_t, State.setField_t, State.setT_t]

/-- The counter of a chunk LDCHUNK can name is at most 2^35, far below the counter's range. -/
theorem chunkCounter_le (s : State) (k : ChunkIndex) : min (128 * (k.val + 1)) s.bufLen ≤ 2 ^ 35 := by
  have := k.isLt
  omega

theorem toNat_chunkCounter (s : State) (k : ChunkIndex) :
    (chunkCounter s k.val).toNat = min (128 * (k.val + 1)) s.bufLen := by
  have le := chunkCounter_le s k
  rw [chunkCounter, BitVec.toNat_ofNat, Nat.mod_eq_of_lt]
  exact le.trans_lt (by norm_num)

/-- A chunk is in range when its number is below NCHUNK (R31). -/
theorem chunk_inside_iff (s : State) (k : Nat) : 128 * k < s.bufLen ↔ k < chunkCount s.len := by
  simp only [State.bufLen, Config.blockBytes, chunkCount]
  omega

theorem bufByte_of_le {s : State} {a : Nat} (le : s.bufLen ≤ a) : s.bufByte a = 0 := if_neg (Nat.not_lt.2 le)

theorem memRead_congr {s s' : State} {a n : Nat} (same : ∀ j < n, s'.bufByte (a + j) = s.bufByte (a + j)) :
    s'.memRead a n = s.memRead a n :=
  List.map_congr_left fun j mem => same j (List.mem_range.1 mem)

/-- What a chunk in range loads depends on the bytes below 128·NCHUNK alone. -/
theorem chunkWords_congr {s s' : State} {k n : Nat} (lt : k < n) (same : ∀ a < 128 * n, s'.bufByte a = s.bufByte a) :
    chunkWords s' k = chunkWords s k := by
  refine ext_lanes fun i => ?_
  simp only [chunkWords, Fin.getElem_fin, Vector.getElem_ofFn]
  rw [memRead_congr fun j lt' => same _ (by simp only [Config.blockBytes]; omega)]

/-- Settles O30: the padding view reads 0, LDCHUNK's range check is k < NCHUNK, and a chunk in range lies below
128·NCHUNK. -/
theorem chunkRangeAndPadding : Obligations.ChunkRangeAndPadding := by
  refine fun s => ⟨fun a => bufByte_of_le, fun k ok => ⟨fun beyond => ?_, fun lt => ?_⟩⟩
  · rw [exec_ldchunk_beyond (Nat.not_lt.1 fun inside => absurd ((chunk_inside_iff s k).1 inside) (Nat.not_lt.2 beyond)),
      raise, enterFault_of_unfaulted ok]
    rfl
  · have inside := (chunk_inside_iff s k.val).2 lt
    refine ⟨⟨_, _, exec_ldchunk_inside inside, (completed_fault _ s).trans ok, completed_ldchunk_t k s, ?_⟩,
      fun i j lt' => by omega, fun s' t t' len same h h' => ?_⟩
    · rw [toNat_chunkCounter]
      exact Nat.min_le_right _ _
    · have inside' : 128 * k.val < s'.bufLen := (chunk_inside_iff s' k.val).2 (len ▸ lt)
      cases (exec_ldchunk_inside inside).symm.trans h
      cases (exec_ldchunk_inside inside').symm.trans h'
      rw [completed_ldchunk_t, completed_ldchunk_t]
      simp only [completed, State.advance_m, State.setField_m, State.setT_m, State.setM_m, chunkWords_congr lt same,
        chunkCounter, State.bufLen, len, and_self]

end Chunk

end Sys2Proof.Machine

namespace Sys2Proof

open Sys2Proof.Machine

/-- Settles O29: the counter is R82's own formula, and k is below 2^28. -/
theorem chunkCounter : Obligations.ChunkCounter := by
  intro s t k h inside
  cases (exec_ldchunk_inside inside).symm.trans h
  have value := toNat_chunkCounter s k
  have le := chunkCounter_le s k
  refine ⟨_, completed_ldchunk_t k s, value, value ▸ le, ?_⟩
  rw [counterHigh_eq, value, Nat.div_eq_of_lt (le.trans_lt (by norm_num))]
  rfl

end Sys2Proof
end

section
/-! PROOFS. COMPRESS against its expansion (42_compression.md R85, 30_encoding.md R56): the states the rounds go through,
and the feed-forward after them. -/

namespace Sys2Proof.Machine

/-- The state reached from `s` by `n` commands that write values to all of v. -/
def State.inRounds (s : State) (w : Vector Word64 16) (f : FieldLevel) (n : Nat) : State :=
  { s with v := written w, field := f, cp := s.cp + n }

section Rounds

variable {s : State} {w : Vector Word64 16} {f : FieldLevel} {n : Nat} {h : Vector Word64 8} {m : Vector Word64 16}
  {c : Counter}

@[simp] theorem State.inRounds_params : (s.inRounds w f n).params = s.params := by dsimp only [State.inRounds]
@[simp] theorem State.inRounds_v : (s.inRounds w f n).v = written w := by dsimp only [State.inRounds]
@[simp] theorem State.inRounds_h : (s.inRounds w f n).h = s.h := by dsimp only [State.inRounds]
@[simp] theorem State.inRounds_m : (s.inRounds w f n).m = s.m := by dsimp only [State.inRounds]
@[simp] theorem State.inRounds_fault : (s.inRounds w f n).fault = s.fault := by dsimp only [State.inRounds]
@[simp] theorem State.inRounds_field : (s.inRounds w f n).field = f := by dsimp only [State.inRounds]

theorem exec_seed_inRounds (hh : s.h = written h) (ht : s.t = some c) (b : Bool) :
    exec (.seed b) s = .next (s.inRounds (seedWords s.params h c b) (fieldSeed (seedUpper s.params c b) s.field) 1) := by
  simp only [exec_seed_held hh ht, State.setV, State.setField, State.advance, State.inRounds]

theorem exec_round_inRounds (hm : s.m = written m) {r : RoundNumber} (lt : r.val < 12) :
    exec (.round r) (s.inRounds w f n) = .next (s.inRounds (roundWords s.params r.val m w)
      (fieldRound s.params.reuseExploded (sigmaRow s.params r.val) f) (n + 1)) := by
  rw [exec_round_written lt State.inRounds_v (State.inRounds_m.trans hm)]
  simp only [State.setV, State.setField, State.advance, State.inRounds, Nat.add_assoc]

variable (ok : s.fault = 0) (is : List Instr)
include ok

/-- Rounds one after the other do their rounds' words to v and their circuits to the field level. -/
theorem execAll_rounds (hm : s.m = written m) : ∀ (rs : List Nat), (∀ r ∈ rs, r < 12) → ∀ w f n,
    execAll (rs.map (fun r => Instr.round (Fin.ofNat 16 r)) ++ is) (s.inRounds w f n) =
      execAll is (s.inRounds (rs.foldl (fun v r => roundWords s.params r m v) w)
        ((rs.map (sigmaRow s.params)).foldl (fun f q => fieldRound s.params.reuseExploded q f) f) (n + rs.length))
  | [], _, w, f, n => rfl
  | r :: rs, lt, w, f, n => by
    obtain ⟨ltr, ltrs⟩ := List.forall_mem_cons.1 lt
    have number : (Fin.ofNat 16 r).val = r := Nat.mod_eq_of_lt (ltr.trans (by decide))
    have round := exec_round_inRounds (s := s) (w := w) (f := f) (n := n) hm (r := Fin.ofNat 16 r) (by rwa [number])
    rw [number] at round
    rw [List.map_cons, List.cons_append, execAll_cons round (State.inRounds_fault.trans ok),
      execAll_rounds hm rs ltrs, List.foldl_cons, List.map_cons, List.foldl_cons, List.length_cons,
      Nat.add_assoc, Nat.add_comm 1]

end Rounds

/-- A file of lanes that all hold values is a file of values. -/
theorem eq_written_of_held {k : Nat} {lanes : Vector (Option Word64) k} (held : ¬ ∃ i : Fin k, lanes[i] = none) :
    lanes = written (wordsOf lanes) := by
  refine (written_wordsOf ?_).symm
  by_contra unwritten
  exact held (allWritten_eq_false.1 (by simpa using unwritten))

/-- What a COMPRESS that completes has read: h, m and t hold values. -/
theorem held_of_compress {s : State} {f : Bool} (held : ¬ OperandUnwritten s (.compress f)) :
    ∃ h m c, s.h = written h ∧ s.m = written m ∧ s.t = some c := by
  simp only [OperandUnwritten, not_or] at held
  obtain ⟨hh, hm, ht⟩ := held
  obtain ⟨c, ht⟩ := Option.ne_none_iff_exists'.1 ht
  exact ⟨_, _, c, eq_written_of_held hh, eq_written_of_held hm, ht⟩

/-- The expansion of a COMPRESS whose operands hold values leaves the state COMPRESS leaves, but for cp. -/
theorem execAll_expand_compressx {s : State} {f : Bool} {h : Vector Word64 8} {m : Vector Word64 16} {c : Counter}
    (ok : s.fault = 0) (hh : s.h = written h) (hm : s.m = written m) (ht : s.t = some c) :
    execAll (expand (.compressx f)) s = .next { completed (.compress f) s with cp := s.cp + 14 } := by
  have rounds := execAll_rounds ok [.feed] hm (List.range 12) (by simp) (seedWords s.params h c f)
    (fieldSeed (seedUpper s.params c f) s.field) 1
  rw [expand, List.cons_append, execAll_cons (exec_seed_inRounds hh ht f) (State.inRounds_fault.trans ok),
    allRoundCommands, rounds,
    execAll_cons (exec_feed_held (State.inRounds_h.trans hh) State.inRounds_v) (by simpa using ok)]
  simp only [execAll, completed, hh, hm, ht, wordsOf_written, Option.getD_some, State.setV, State.setH, State.setField,
    State.advance, State.inRounds, List.length_range, Nat.add_assoc, compressWords, allRounds, fieldCompress,
    scheduleRows]

/-- Settles O34: a COMPRESS that completes has read registers that hold values, on which its expansion completes too. -/
theorem compressEqualsItsExpansion : Obligations.CompressEqualsItsExpansion := by
  intro s t f ok h done
  obtain ⟨rfl, held⟩ := completed_of_exec_fault_zero h done
  obtain ⟨_, _, _, hh, hm, ht⟩ := held_of_compress held
  exact ⟨execAll_expand_compressx ok hh hm ht, completed_cp _ s⟩

end Sys2Proof.Machine
end

section
/-! PROOFS. The invariants (20_memory.md R30, R37; 10_state.md R16; 60_exceptions.md R110; 43_host_driver.md R91, R92):
reset meets them, and every step and every host move keeps them. -/

namespace Sys2Proof.Machine

variable {s t : State}

/-! ### The output buffer (R30, R37) -/

/-- A byte that is read in a space whose unlisted addresses hold none is listed. -/
theorem exists_mem_of_readByte {mem : Memory} {a : Nat} {b : Byte} (h : readByte outUnlisted mem a = some b) :
    ∃ c ∈ mem, c.1 = a := by
  induction mem with
  | nil => cases h
  | cons c cs ih =>
    rw [readByte_cons] at h
    split at h
    next eq => exact ⟨c, List.mem_cons_self .., eq⟩
    next => obtain ⟨d, mem, eq⟩ := ih h; exact ⟨d, List.mem_cons_of_mem _ mem, eq⟩

/-- Thirty-two bytes written to an Out that is empty or whole leave it whole. -/
theorem addresses_writeBytes_out {out : Memory} {bs : List Byte} (wf : Memory.wf outUnlisted out)
    (whole : out = [] ∨ out.map (fun c => c.1) = List.range 32) (length : bs.length = 32) :
    (writeBytes outUnlisted out 0 bs).map (fun c => c.1) = List.range 32 := by
  have sorted := List.pairwise_map.2 (writeBytes_wf bs 0 wf).1
  refine sorted.eq_of_mem_iff List.pairwise_lt_range fun a => ?_
  rw [List.mem_map, List.mem_range]
  constructor
  · rintro ⟨c, mem, rfl⟩
    rcases mem_writeBytes bs mem with old | ⟨_, lt⟩
    · rcases whole with rfl | addresses
      · cases old
      · exact List.mem_range.1 (addresses ▸ List.mem_map_of_mem old)
    · omega
  · intro lt
    refine exists_mem_of_readByte (b := bs[a]) ?_
    rw [readByte_writeBytes bs 0 a wf, dif_pos (by omega)]
    rfl

/-! ### The memories -/

/-- The invariant of the memories speaks of Buf, BUFLEN and Out alone. -/
theorem MemoriesCanonical.congr (h : MemoriesCanonical s) (buf : t.buf = s.buf) (len : t.len = s.len)
    (built : t.built = s.built) (out : t.out = s.out) : MemoriesCanonical t where
  bufForm := buf ▸ h.bufForm
  bufRange := by
    rw [State.bufLen, buf, len, built]
    exact h.bufRange
  outForm := out ▸ h.outForm
  outWhole := out ▸ h.outWhole

theorem MemoriesCanonical.enterFault (h : MemoriesCanonical s) (c : FaultCode) : MemoriesCanonical (s.enterFault c) :=
  h.congr rfl rfl rfl rfl

/-- A command that completes keeps the memories canonical: only STDIG writes one of them. -/
theorem MemoriesCanonical.completed (h : MemoriesCanonical s) (i : Instr) : MemoriesCanonical (completed i s) := by
  have host := completed_sameHostSide i s
  by_cases store : i = .stdig
  · subst store
    refine ⟨?_, ?_, ?_, ?_⟩
    · rw [host.buf]
      exact h.bufForm
    · rw [State.bufLen, host.buf, host.len, host.built]
      exact h.bufRange
    · rw [completed_stdig_out]
      exact writeBytes_wf _ 0 h.outForm
    · rw [completed_stdig_out]
      exact .inr (addresses_writeBytes_out h.outForm h.outWhole (length_digestBytes _))
  · exact h.congr host.buf host.len host.built (completed_out store s)

/-! ### The control state -/

/-- Every code of R110 is at most 5. -/
theorem FaultCode.code_le (c : FaultCode) : c.code.toNat ≤ 5 := by cases c <;> decide

/-- The invariant of the control state speaks of FAULT, cp, the stream and what construction checked. -/
theorem ControlLegal.congr (h : ControlLegal s) (host : SameHostSide s t) (code : t.fault.toNat ≤ 5) (cp : t.cp = s.cp) :
    ControlLegal t where
  faultCode := code
  pointer := by rw [host.stream, cp]; exact h.pointer
  admitted := by rw [host.built, host.nIn, host.bwIn, host.len, host.params]; exact h.admitted
  unbuilt := by rw [host.built, host.stream]; exact h.unbuilt
  start := by rw [host.stream, cp]; exact h.start

theorem enterFault_code_le (h : s.fault.toNat ≤ 5) (c : FaultCode) : (s.enterFault c).fault.toNat ≤ 5 := by
  rw [State.enterFault_fault]
  split
  · exact c.code_le
  · exact h

theorem ControlLegal.enterFault (h : ControlLegal s) (c : FaultCode) : ControlLegal (s.enterFault c) :=
  h.congr (enterFault_sameHostSide s c) (enterFault_code_le h.faultCode c) rfl

/-- A step that adds one to cp has fetched a word there, so that cp stays within the stream. -/
theorem ControlLegal.completed (h : ControlLegal s) {words : List CommandWord} {w : CommandWord}
    (stream : s.stream = some words) (fetched : words[s.cp]? = some w) (i : Instr) : ControlLegal (completed i s) := by
  have host := completed_sameHostSide i s
  refine ⟨?_, fun words' e => ?_, ?_, ?_, fun e => ?_⟩
  · rw [completed_fault]
    exact h.faultCode
  · cases stream.symm.trans (host.stream.symm.trans e)
    rw [completed_cp]
    exact (List.getElem?_eq_some_iff.1 fetched).1
  · rw [host.built, host.nIn, host.bwIn, host.len, host.params]
    exact h.admitted
  · rw [host.built, host.stream]
    exact h.unbuilt
  · cases stream.symm.trans (host.stream.symm.trans e)

/-- Settles O41: a step enters a fault, which keeps both, or completes a command and moves the driver, of which neither
speaks. -/
theorem stepKeepsInvariants : Obligations.StepKeepsInvariants := by
  intro s t memories control h
  obtain ⟨_, _, _, words, w, stream, fetched, _⟩ := fetched_of_step h
  rcases step_next h with ⟨c, _, rfl⟩ | ⟨i, _, _, _, rfl⟩
  · exact ⟨memories.enterFault c, control.enterFault c⟩
  · have control' := control.completed stream fetched i
    exact ⟨(memories.completed i).congr rfl rfl rfl rfl,
      ⟨control'.faultCode, control'.pointer, control'.admitted, control'.unbuilt, control'.start⟩⟩

/-! ### The host moves -/

theorem wf_nil (u : Option Byte) : Memory.wf u [] := ⟨List.Pairwise.nil, nofun⟩

theorem buildBuf_wf (key : Vector Byte 16) (message : List Byte) : Memory.wf bufUnlisted (buildBuf key message) :=
  writeBytes_wf _ _ (writeBytes_wf _ _ (wf_nil _))

/-- The built buffer lists addresses of the key and of the message (R31). -/
theorem lt_of_mem_buildBuf {key : Vector Byte 16} {message : List Byte} {c : Host.Cell}
    (mem : c ∈ buildBuf key message) : c.1 < 128 + message.length := by
  rcases mem_writeBytes _ mem with old | ⟨_, lt⟩
  · rcases mem_writeBytes _ old with none | ⟨_, lt⟩
    · cases none
    · simp only [Vector.length_toList] at lt
      omega
  · exact lt

/-- Construction builds a canonical buffer within BUFLEN, and leaves Out. -/
theorem MemoriesCanonical.construct (h : MemoriesCanonical s) (unbuilt : s.built = false) (a : ConstructArgs) :
    MemoriesCanonical (s.construct a) := by
  rcases construct_cases s a with ⟨_, e⟩ | ⟨_, _, e⟩ | ⟨_, _, e⟩ <;> rw [e]
  · exact ⟨h.bufForm, fun built => (nomatch unbuilt.symm.trans built), h.outForm, h.outWhole⟩
  · exact ⟨h.bufForm, fun built => (nomatch unbuilt.symm.trans built), h.outForm, h.outWhole⟩
  · refine ⟨buildBuf_wf _ _, fun _ c mem => ?_, h.outForm, h.outWhole⟩
    exact (lt_of_mem_buildBuf mem).trans_le (Nat.add_le_add_left (List.length_take_le _ _) _)

/-- Construction leaves a state that is not built, or one that passed the checks. -/
theorem ControlLegal.construct (h : ControlLegal s) (unbuilt : s.built = false) (a : ConstructArgs) :
    ControlLegal (s.construct a) := by
  rcases construct_cases s a with ⟨_, e⟩ | ⟨_, _, e⟩ | ⟨length, admitted, e⟩ <;> rw [e]
  · exact ⟨enterFault_code_le (s := s.configure a) h.faultCode _, h.pointer,
      fun built => (nomatch unbuilt.symm.trans built), h.unbuilt, h.start⟩
  · exact ⟨h.faultCode, h.pointer, fun built => (nomatch unbuilt.symm.trans built), h.unbuilt, h.start⟩
  · exact ⟨h.faultCode, h.pointer, fun _ => ⟨length, admitted⟩, nofun, h.start⟩

/-- A report of CONSTRAINT_VIOLATION, with what it keeps. -/
theorem invariants_report (memories : MemoriesCanonical s) (control : ControlLegal s) (v : Option Violation) :
    MemoriesCanonical { s.enterFault .constraintViolation with violation := v } ∧
      ControlLegal { s.enterFault .constraintViolation with violation := v } :=
  ⟨memories.congr rfl rfl rfl rfl, ⟨enterFault_code_le control.faultCode _, control.pointer, control.admitted,
    control.unbuilt, control.start⟩⟩

/-- The lane-write port writes a lane and its representation, or reports. -/
theorem invariants_portWrite (memories : MemoriesCanonical s) (control : ControlLegal s) (form : PortForm) (n : LaneName)
    (value : Nat) : MemoriesCanonical (s.portWrite form n value) ∧ ControlLegal (s.portWrite form n value) := by
  rcases portWrite_cases s form n value with ⟨_, _, e⟩ | ⟨_, _, e⟩ | ⟨_, e⟩ <;> rw [e]
  · cases n <;> exact ⟨memories.congr rfl rfl rfl rfl,
      ⟨control.faultCode, control.pointer, control.admitted, control.unbuilt, control.start⟩⟩
  · cases n <;> exact ⟨memories.congr rfl rfl rfl rfl,
      ⟨control.faultCode, control.pointer, control.admitted, control.unbuilt, control.start⟩⟩
  · exact invariants_report memories control _

/-- Settles O42, move by move. -/
theorem hostMovesKeepInvariants : Obligations.HostMovesKeepInvariants := by
  intro s t mv memories control h
  rcases hostMove_some h with ⟨_, rfl⟩ | ⟨a, _, unbuilt, _, rfl⟩ | ⟨words, _, built, noStream, _, rfl⟩ |
    ⟨form, n, value, _, _, rfl⟩ | ⟨_, _, _, _, rfl⟩ | ⟨_, _, rfl⟩ | ⟨witness, _, _, rfl⟩
  · exact ⟨⟨memories.bufForm, nofun, wf_nil _, .inl rfl⟩, ⟨Nat.zero_le 5, nofun, nofun, fun _ => rfl, fun _ => rfl⟩⟩
  · exact ⟨memories.construct unbuilt a, control.construct unbuilt a⟩
  · refine ⟨memories.congr rfl rfl rfl rfl, ⟨control.faultCode, fun _ _ => ?_, control.admitted,
      fun unbuilt => (nomatch built.symm.trans unbuilt), nofun⟩⟩
    exact (control.start noStream).trans_le (Nat.zero_le _)
  · exact invariants_portWrite memories control form n value
  · exact ⟨memories.congr rfl rfl rfl rfl,
      ⟨control.faultCode, control.pointer, control.admitted, control.unbuilt, control.start⟩⟩
  · exact ⟨memories, control⟩
  · rcases judge_cases s witness with e | ⟨c, _, _, e⟩ <;> rw [e]
    · exact ⟨memories, control⟩
    · exact invariants_report memories control _

/-! ### Reset -/

/-- Settles O43: nothing is listed, built or supplied at reset. -/
theorem resetMeetsInvariants : Obligations.ResetMeetsInvariants :=
  ⟨⟨wf_nil _, nofun, wf_nil _, .inl rfl⟩, ⟨Nat.zero_le 5, nofun, nofun, fun _ => rfl, fun _ => rfl⟩⟩

/-- No lane of the reset state holds a value (10_state.md R27). -/
theorem lane_reset (n : LaneName) : State.reset.lane n = none := by
  cases n <;> simp [State.lane, State.reset]

theorem construct_cp (s : State) (a : ConstructArgs) : (s.construct a).cp = s.cp := by
  rcases construct_cases s a with ⟨_, e⟩ | ⟨_, _, e⟩ | ⟨_, _, e⟩ <;> rw [e] <;> rfl

/-- Settles O44: the reset move takes every register but those of R27 from the reset state; neither construction nor the
supply of a stream moves cp. -/
theorem resetValues : Obligations.ResetValues := by
  intro s t h
  cases h
  refine ⟨fun n => ?_, rfl, rfl, rfl, rfl, fun _ => rfl, rfl, rfl, rfl, rfl, rfl, rfl, rfl, rfl, rfl,
    fun a words t' t'' constructed supplied => ?_⟩
  · exact lane_reset n
  · rcases hostMove_some constructed with ⟨e, _⟩ | ⟨a, _, _, _, rfl⟩ | h
    · cases e
    · rcases hostMove_some supplied with ⟨e, _⟩ | ⟨_, e, _⟩ | ⟨_, e, _, _, _, rfl⟩ | h
      · cases e
      · cases e
      · cases e
        exact ⟨construct_cp _ a, rfl⟩
      · simp at h
    · simp at h

end Sys2Proof.Machine
end

section
/-! PROOFS. The reserved parameters BINARY_OUT, PAD_REQ and LABEL (43_host_driver.md R93): no step and no construction
reads them. -/

namespace Sys2Proof.Machine

/-- The state with the three reserved registers replaced. -/
def State.withReserved (s : State) (b p : Bool) (l : Option String) : State :=
  { s with binaryOut := b, padReq := p, label := l }

section Reserved

variable (s : State) (b p : Bool) (l : Option String)

theorem enterFault_withReserved (c : FaultCode) :
    (s.withReserved b p l).enterFault c = (s.enterFault c).withReserved b p l := rfl

theorem writeResult_withReserved (n : LaneName) (x : Word64) (f : FieldLevel) :
    (s.withReserved b p l).writeResult n x f = (s.writeResult n x f).withReserved b p l := by
  cases n <;> rfl

/-- A command completes alike whatever the reserved registers hold. -/
theorem completed_withReserved (i : Instr) :
    completed i (s.withReserved b p l) = (completed i s).withReserved b p l := by
  cases i with
  | xor | add | addm | rotr => exact writeResult_withReserved s b p l _ _ _
  | ldchunk k =>
    have words : chunkWords (s.withReserved b p l) k.val = chunkWords s k.val := rfl
    have wires : chunkWires (s.withReserved b p l) k.val = chunkWires s k.val := rfl
    have counter : chunkCounter (s.withReserved b p l) k.val = chunkCounter s k.val := rfl
    simp only [completed, words, wires, counter]
    rfl
  | g | round | init | seed | feed | compress | stdig =>
    simp only [completed, mixLanes, State.withReserved, State.setV, State.setH, State.setOut, State.setField,
      State.advance]

theorem operandUnwritten_withReserved (i : Instr) : OperandUnwritten (s.withReserved b p l) i ↔ OperandUnwritten s i := by
  cases i <;> exact Iff.rfl

theorem chunkOutOfRange_withReserved (i : Instr) : ChunkOutOfRange (s.withReserved b p l) i ↔ ChunkOutOfRange s i := by
  cases i <;> exact Iff.rfl

end Reserved

/-! ### The outcomes of a command by its operands (60_exceptions.md R111) -/

section Outcomes

variable {s : State} {i : Instr}

theorem exec_of_operandUnwritten (wf : i.wellFormed = true) (un : OperandUnwritten s i) :
    exec i s = raise .unwrittenRead s := by
  cases exec_cases i s with
  | illegal ill => cases wf.symm.trans ill
  | unwritten _ _ eq => exact eq
  | range _ wr | completes _ wr => exact absurd un wr

theorem exec_of_chunkOutOfRange (wf : i.wellFormed = true) (out : ChunkOutOfRange s i) :
    exec i s = raise .chunkRange s := by
  cases exec_cases i s with
  | illegal ill => cases wf.symm.trans ill
  | unwritten _ un => exact absurd un (not_operandUnwritten_of_chunkOutOfRange out)
  | range _ _ _ eq => exact eq
  | completes _ _ inside => exact absurd out inside

end Outcomes

/-- An outcome with its next state replaced by a function of it. -/
def mapNext (g : State → State) : Result → Result
  | .next t => .next (g t)
  | .fault r => .fault r
  | .refused r => .refused r

section Reserved

variable (s : State) (b p : Bool) (l : Option String)

/-- A command's outcome in a state that differs in the reserved registers alone is the same but for them. -/
theorem exec_withReserved (i : Instr) :
    exec i (s.withReserved b p l) = mapNext (fun t => t.withReserved b p l) (exec i s) := by
  cases exec_cases i s with
  | illegal ill eq => rw [eq, exec_of_not_wellFormed ill]; rfl
  | unwritten wf un eq => rw [eq, exec_of_operandUnwritten wf ((operandUnwritten_withReserved ..).2 un)]; rfl
  | range wf _ out eq => rw [eq, exec_of_chunkOutOfRange wf ((chunkOutOfRange_withReserved ..).2 out)]; rfl
  | completes wf wr inside eq =>
    rw [eq, exec_eq_completed wf (mt (operandUnwritten_withReserved ..).1 wr)
      (mt (chunkOutOfRange_withReserved ..).1 inside), completed_withReserved]
    rfl

theorem followDriver_withReserved (i : Instr) (r : Result) :
    followDriver i (mapNext (fun t => t.withReserved b p l) r) =
      mapNext (fun t => t.withReserved b p l) (followDriver i r) := by
  cases r with
  | next t =>
    simp only [mapNext, followDriver, Host.Outcome.next.injEq]
    by_cases ok : t.fault = 0
    · rw [if_pos ok]
      exact if_pos ok
    · rw [if_neg ok]
      exact if_neg ok
  | fault | refused => rfl

theorem runWord_withReserved (w : CommandWord) :
    runWord (s.withReserved b p l) w = mapNext (fun t => t.withReserved b p l) (runWord s w) := by
  unfold runWord
  cases decode w with
  | command i => simp only [exec_withReserved, followDriver_withReserved]
  | illegal => rfl

theorem step_withReserved :
    step (s.withReserved b p l) = mapNext (fun t => t.withReserved b p l) (step s) := by
  by_cases refused : s.refused = true
  · rw [step_of_refused refused, step_of_refused (s := s.withReserved b p l) refused]; rfl
  have accepted : s.refused = false := by simpa using refused
  by_cases faulted : s.fault ≠ 0
  · rw [step_of_faulted accepted faulted, step_of_faulted (s := s.withReserved b p l) accepted faulted]; rfl
  have ok : s.fault = 0 := not_not.1 faulted
  cases built : s.built with
  | false => rw [step_of_unbuilt accepted ok built, step_of_unbuilt (s := s.withReserved b p l) accepted ok built]; rfl
  | true =>
    cases stream : s.stream with
    | none =>
      rw [step_of_no_stream accepted ok built stream,
        step_of_no_stream (s := s.withReserved b p l) accepted ok built stream]
      rfl
    | some words =>
      cases fetched : words[s.cp]? with
      | none =>
        rw [step_of_no_word accepted ok built stream fetched,
          step_of_no_word (s := s.withReserved b p l) accepted ok built stream fetched]
        rfl
      | some w =>
        rw [step_eq_runWord accepted ok built stream fetched,
          step_eq_runWord (s := s.withReserved b p l) accepted ok built stream fetched, runWord_withReserved]

theorem construct_withReserved (a : ConstructArgs) :
    s.construct { a with binaryOut := b, padReq := p, label := l } = (s.construct a).withReserved b p l := by
  rcases construct_cases s a with ⟨length, e⟩ | ⟨length, config, e⟩ | ⟨length, config, e⟩ <;>
    rw [e, State.construct]
  · rw [length]; rfl
  · rw [length, config]; rfl
  · rw [length, config]; rfl

end Reserved

/-- Settles O40: the three registers are read by nothing that a step or a construction does. -/
theorem reservedParametersHaveNoEffect : Obligations.ReservedParametersHaveNoEffect := by
  intro s b p l
  refine ⟨?_, fun a => construct_withReserved s b p l a, fun _ => rfl, rfl⟩
  refine (step_withReserved s b p l).trans ?_
  cases step s <;> rfl

end Sys2Proof.Machine
end

section
/-! PROOFS. Construction (43_host_driver.md R91 to R94), the lane-write port (R99) and the judgement of a witness
(60_exceptions.md R113). -/

namespace Sys2Proof.Machine

variable {s : State}

/-! ### Which constructions are refused (R92) -/

theorem configurationAdmitted_eq_false_iff (p : Config.Params) (bw len : Nat) :
    configurationAdmitted p bw len = false ↔ bw ≠ 8 ∨ 2 ^ 28 < chunkCount len ∨ p.fieldPrime ≤ 2 ^ 66 := by
  simp only [configurationAdmitted, Config.maxChunks, Config.Params.fieldLargeEnough, Bool.and_eq_false_iff,
    beq_eq_false_iff_ne, decide_eq_false_iff_not, Nat.not_le, Nat.not_lt, or_assoc]
  rfl

/-- Settles O58: a construction that passes the length check is refused, or builds the gadget. -/
theorem constructionRefusal : Obligations.ConstructionRefusal := by
  intro s a unbuilt running length
  refine ⟨_, hostMove_construct unbuilt running a,
    (construct_fault_of_admitted length).trans (unfaulted_of_running running), ?_⟩
  rw [← configurationAdmitted_eq_false_iff]
  rcases construct_cases s a with ⟨failed, _⟩ | ⟨_, config, e⟩ | ⟨_, config, e⟩
  · cases length.symm.trans failed
  · have refused : (s.construct a).refused = true := by rw [e]
    exact ⟨iff_of_true refused config, fun _ => ⟨by rw [e]; exact unbuilt, step_of_refused refused,
      final_of_refused refused⟩, fun accepted => (nomatch refused.symm.trans accepted)⟩
  · have accepted : (s.construct a).refused = false := by
      rw [e]
      exact accepted_of_running (s := s) running
    exact ⟨iff_of_false (by simp [accepted]) (by simp [config]),
      fun refused => (nomatch accepted.symm.trans refused), fun _ => by rw [e]; rfl⟩

/-! ### The buffer construction builds (R94) -/

/-- The prepared input by address: the key, zeros, the message, and zero beyond its end (20_memory.md R31, R32). -/
theorem getD_preparedInput (p : Config.Params) (message : List Byte) (a : Nat) :
    (preparedInput p message).getD a 0 =
      if a < 16 then p.key.toList.getD a 0 else if a < 128 then 0 else message.getD (a - 128) 0 := by
  simp only [preparedInput, List.getD_eq_getElem?_getD, List.getElem?_append, List.length_append, Vector.length_toList,
    List.length_replicate]
  by_cases key : a < 16
  · rw [if_pos (by omega), if_pos key, if_pos key]
  · rw [if_neg key, if_neg key]
    by_cases zero : a < 128
    · rw [if_pos (by omega), if_pos zero, List.getElem?_replicate, if_pos (by omega), Option.getD_some]
    · rw [if_neg (by omega), if_neg zero]

/-- What a built buffer lists. -/
theorem readByte_buildBuf (key : Vector Byte 16) (message : List Byte) (a : Nat) :
    readByte bufUnlisted (buildBuf key message) a =
      if a < 16 then key.toList[a]? else if a < 128 then some 0 else some (message.getD (a - 128) 0) := by
  rw [buildBuf, readByte_writeBytes _ _ _ (writeBytes_wf _ _ (wf_nil _)), readByte_writeBytes _ _ _ (wf_nil _)]
  by_cases low : a < 16
  · rw [if_pos low, dif_neg (by simp only [Config.blockBytes]; omega), dif_pos (by simp [low])]
    simp [low]
  · rw [if_neg low]
    by_cases zero : a < 128
    · rw [if_pos zero, dif_neg (by simp only [Config.blockBytes]; omega), dif_neg (by simp [low])]
      rfl
    · rw [if_neg zero]
      by_cases inside : a - 128 < message.length
      · rw [dif_pos ⟨Nat.not_lt.1 zero, inside⟩, List.getD_eq_getElem _ _ inside]
      · rw [dif_neg fun h => inside h.2, dif_neg (by simp [low]), List.getD_eq_default _ _ (Nat.not_lt.1 inside)]
        rfl

/-- The padding view of a built buffer is the prepared input. -/
theorem bufByte_of_buildBuf {message : List Byte} (buf : s.buf = buildBuf s.params.key message)
    (len : s.len = message.length) (a : Nat) : s.bufByte a = (preparedInput s.params message).getD a 0 := by
  rw [getD_preparedInput]
  by_cases inside : a < s.bufLen
  · rw [State.bufByte, if_pos inside, buf, readByte_buildBuf]
    split_ifs
    · rw [List.getD_eq_getElem?_getD]
    · rfl
    · rfl
  · rw [bufByte_of_le (Nat.not_lt.1 inside)]
    simp only [State.bufLen, Config.blockBytes, len] at inside
    rw [if_neg (by omega), if_neg (by omega), List.getD_eq_default _ _ (by omega)]

/-- A construction that passes both checks. -/
theorem construct_of_admitted {a : ConstructArgs} (length : lengthAdmitted a.inputs.length a.bitWidth a.len = true)
    (config : configurationAdmitted s.params a.bitWidth a.len = true) :
    s.construct a = (s.configure a).buildGadget a.inputs := by
  rw [State.construct, if_pos length, if_pos config]

/-- The message fits in the input wires of a construction that passes both checks (R91, R92). -/
theorem len_le_inputs {p : Config.Params} {n bw len : Nat} (length : lengthAdmitted n bw len = true)
    (config : configurationAdmitted p bw len = true) : len ≤ n := by
  obtain ⟨_, upper⟩ := (lengthAdmitted_iff n bw len).1 length
  simp only [configurationAdmitted, Bool.and_eq_true, beq_iff_eq] at config
  rw [config.1.1] at upper
  omega

theorem bufWire_of_message {s : State} {i : Nat} (lt : i < s.len) : bufWire s (128 + i) = .ofId (s.inputBase + i) := by
  rw [bufWire, if_pos (by simp only [State.bufLen, Config.blockBytes]; omega), Nat.add_sub_cancel_left]

/-- Settles O59: Buf reads as the prepared input, and the input wires are numbered on from the wires allocated. -/
theorem constructionBuildsBuf : Obligations.ConstructionBuildsBuf := by
  intro s a unbuilt running length config
  have le := len_le_inputs length config
  have bytes := bufByte_of_buildBuf (s := (s.configure a).buildGadget a.inputs) (message := a.inputs.take a.len) rfl
    (by simp [State.buildGadget, State.configure, le])
  refine ⟨_, hostMove_construct unbuilt running a, ?_⟩
  rw [construct_of_admitted length config]
  refine ⟨rfl, rfl, le, ?_, fun i => ?_, fun x low high => ?_, fun i lt => ?_, rfl, rfl,
    fun i lt => bufWire_of_message (s := (s.configure a).buildGadget a.inputs) lt⟩
  · show 1 + (a.len + 127) / 128 = (128 + a.len + 127) / 128
    omega
  · rw [bytes, getD_preparedInput, if_pos i.isLt, List.getD_eq_getElem _ _ (by simp), Vector.getElem_toList]
    rfl
  · rw [bytes, getD_preparedInput, if_neg (by omega), if_pos high]
  · refine ⟨a.inputs[i], List.getElem?_eq_getElem (lt.trans_le le), ?_⟩
    rw [bytes, getD_preparedInput, if_neg (by omega), if_neg (by omega), Nat.add_sub_cancel_left,
      List.getD_eq_getElem _ _ (by rw [List.length_take]; omega), List.getElem_take]

/-! ### The judgement of a witness (60_exceptions.md R113) -/

theorem firstViolated_eq_none_iff (p : Nat) (witness : List Nat) (record : List Constraint) :
    firstViolated p witness record = none ↔ Satisfies p (assignmentOf witness) record := by
  simp [firstViolated, Satisfies, Constraint.holds_iff]

theorem judge_of_satisfies {witness : List Nat}
    (sat : Satisfies s.params.fieldPrime (assignmentOf witness) s.field.arena.record) : s.judge witness = s := by
  rw [State.judge, (firstViolated_eq_none_iff ..).2 sat]

/-- Settles O55: the judgement looks for the first violated constraint. -/
theorem witnessJudgement : Obligations.WitnessJudgement := by
  intro s witness final
  refine ⟨s.judge witness, if_pos final, judge_of_satisfies, fun violated => ?_⟩
  obtain ⟨_, ok, _⟩ := final_iff.1 final
  cases e : firstViolated s.params.fieldPrime witness s.field.arena.record with
  | none => exact absurd ((firstViolated_eq_none_iff ..).1 e) violated
  | some c =>
    have fails : c.holds s.params.fieldPrime (assignmentOf witness) = false := by
      simpa [firstViolated] using List.find?_some e
    refine ⟨c, List.mem_of_find?_eq_some e, fun holds => ?_, ?_⟩
    · cases fails.symm.trans (c.holds_iff.2 holds)
    · rw [State.judge, e]
      simp only [enterFault_of_unfaulted ok]
      rfl

/-! ### The lane-write port (R99) -/

/-- A constant meets the lane invariant in every field with room for a lane (R62). -/
theorem means_ofWord {p : Nat} (big : 2 ^ 64 ≤ p) (x : Word64) (assign : Nat → Int) :
    (LaneRep.ofWord x).Means p assign x := by
  refine ⟨?_, nofun⟩
  exact Int.emod_eq_of_lt (Int.natCast_nonneg _) (Int.ofNat_lt.2 (x.isLt.trans_le big))

/-- An input wire and the bits `explode_64` gives it meet the lane invariant where its constraints hold (R60, R62). -/
theorem means_exploded {p : Nat} {assign : Nat → Int} {w : Wire} {bits : List Wire} {x : Word64} (prime : p.Prime)
    (big : 2 ^ 64 ≤ p) (width : bits.length = 64) (value : w.value p assign = x.toNat)
    (sat : Satisfies p assign (explodeConstraints bits w)) :
    LaneRep.Means p assign { packed := w, bits := some bits } x := by
  obtain ⟨_, held⟩ := (satisfies_explodeConstraints_iff_of_value prime (by rwa [width]) value).1 sat
  refine ⟨value, fun _ e => ?_⟩
  cases e
  exact ⟨width, held⟩

theorem hostMove_writeLane (running : s.runEnded = false) (form : PortForm) (n : LaneName) (value : Nat) :
    hostMove (.writeLane form n value) s = some (s.portWrite form n value) := by
  simp [hostMove, running]

/-- A 64-bit value is within the port's range. -/
theorem portWrite_toNat (form : PortForm) (n : LaneName) (x : Word64) :
    (form = .constant ∧ s.portWrite form n x.toNat = s.portConstant n x) ∨
      (form = .inputWire ∧ s.portWrite form n x.toNat = s.portInput n x) := by
  rcases portWrite_cases s form n x.toNat with ⟨_, e, h⟩ | ⟨_, e, h⟩ | ⟨le, _⟩
  · exact .inl ⟨e, by rw [h, BitVec.ofNat_toNat, BitVec.setWidth_eq]⟩
  · exact .inr ⟨e, by rw [h, BitVec.ofNat_toNat, BitVec.setWidth_eq]⟩
  · exact absurd x.isLt (Nat.not_lt.2 le)

theorem lane_portInput (n n' : LaneName) (x : Word64) :
    (s.portInput n x).lane n' = (s.setLane n (some x)).lane n' := by
  cases n' <;> rfl

/-- Settles O56: each form of the port puts the representation of one lane, the input wire with its own `explode_64`. -/
theorem hostLanePort : Obligations.HostLanePort := by
  intro s n value running
  have ok := unfaulted_of_running running
  refine ⟨fun form x => ⟨_, hostMove_writeLane running form n x.toNat, ?_⟩, fun c => ?_, fun large form => ?_⟩
  · rcases portWrite_toNat (s := s) form n x with ⟨rfl, e⟩ | ⟨rfl, e⟩ <;> rw [e]
    · refine ⟨by simp [State.portConstant], fun n' ne => ⟨?_, FieldLevel.rep_put_ne _ _ ne⟩, by simp [State.portConstant],
        by simpa [State.portConstant] using ok, fun _ => ⟨FieldLevel.put_arena .., fun p assign large => ?_⟩, nofun⟩
      · simp [State.portConstant, State.lane_setLane_ne _ ne]
      · have rep : (s.portConstant n x).field.rep n = LaneRep.ofWord x := FieldLevel.rep_put_self ..
        rw [rep]
        exact means_ofWord (by omega) x assign
    · have rep : (s.portInput n x).field.rep n = _ := fieldInput_rep n s.field
      refine ⟨?_, fun n' ne => ⟨?_, FieldLevel.rep_put_ne _ _ ne⟩, by simp [State.portInput],
        by simpa [State.portInput] using ok, nofun, fun _ => ⟨by rw [rep], rfl, _, (fieldInput_arena n s.field).2, ?_⟩⟩
      · rw [lane_portInput, State.lane_setLane_self]
      · rw [lane_portInput, State.lane_setLane_ne _ ne]
      · intro p assign prime large value sat
        rw [rep]
        exact means_exploded prime (by omega) (length_newWires ..) value sat
  · have small : ¬ 2 ^ 128 ≤ c.toNat := Nat.not_le.2 c.isLt
    rw [hostMove, running, decide_eq_false small, BitVec.ofNat_toNat, BitVec.setWidth_eq]
    rfl
  · refine ⟨_, hostMove_writeLane running form n value, ?_⟩
    rcases portWrite_cases s form n value with ⟨lt, _⟩ | ⟨lt, _⟩ | ⟨_, e⟩
    · exact absurd lt (Nat.not_lt.2 large)
    · exact absurd lt (Nat.not_lt.2 large)
    · rw [e, enterFault_of_unfaulted ok]
      exact ⟨rfl, fun n' => by cases n' <;> rfl⟩

end Sys2Proof.Machine
end

section
/-! PROOFS. The circuits of the commands as chains of lane circuits (40_lane_arithmetic.md R66 to R70, 41_mix_round.md R76,
R78, 42_compression.md R84): the record only grows (10_state.md R24), and what it costs (70_reset_and_hazards.md R138). -/

namespace Sys2Proof.Machine

variable {ar ar₁ ar₂ : Arena} {f g k : FieldLevel} {reuse : Bool}

/-! ### Arenas that grow (R24) -/

/-- The second arena has the wires and the constraints of the first, and perhaps more. -/
structure Extends (ar ar' : Arena) : Prop where
  wires : ar.nextWire ≤ ar'.nextWire
  record : ∃ new, ar'.record = ar.record ++ new

theorem Extends.refl (ar : Arena) : Extends ar ar := ⟨le_rfl, [], (List.append_nil _).symm⟩

theorem Extends.trans (h₁ : Extends ar ar₁) (h₂ : Extends ar₁ ar₂) : Extends ar ar₂ := by
  obtain ⟨le₁, new₁, e₁⟩ := h₁
  obtain ⟨le₂, new₂, e₂⟩ := h₂
  exact ⟨le₁.trans le₂, new₁ ++ new₂, by rw [e₂, e₁, List.append_assoc]⟩

theorem extends_emit (ar : Arena) (n : Nat) (cs : List Constraint) : Extends ar (ar.emit n cs) :=
  ⟨Nat.le_add_right _ n, cs, rfl⟩

theorem extends_explode (n : Nat) (w : Wire) (ar : Arena) : Extends ar (explode n w ar).2 := extends_emit ..

theorem extends_bitsOf (reuse : Bool) (r : LaneRep) (ar : Arena) : Extends ar (bitsOf reuse r ar).2 := by
  rcases bitsOf_cases reuse r ar with ⟨bits, _, _, e⟩ | e <;> rw [e]
  · exact .refl ar
  · exact extends_explode ..

theorem extends_xorRep (reuse : Bool) (a b : LaneRep) (ar : Arena) : Extends ar (xorRep reuse a b ar).2 :=
  ((extends_bitsOf reuse a ar).trans (extends_bitsOf reuse b _)).trans (extends_emit ..)

theorem extends_explodeBytes : ∀ (ws : List Wire) (ar : Arena), Extends ar (explodeBytes ws ar).2
  | [], ar => .refl ar
  | w :: ws, ar => (extends_explode 8 w ar).trans (extends_explodeBytes ws _)

theorem extends_storeLane (reuse : Bool) (r : LaneRep) (ar : Arena) : Extends ar (storeLane reuse r ar).2 :=
  extends_bitsOf ..

/-! ### Chains of lane circuits -/

/-- The second field level comes from the first by circuits of XOR, ADD, ADDM and ROTR, one after the other; `products`
counts 64 for each XOR, and `bits` the bits that the trims explode (R138). -/
inductive LaneCircuits (reuse : Bool) (f : FieldLevel) : (products bits : Nat) → FieldLevel → Prop
  | refl : LaneCircuits reuse f 0 0 f
  | xor {m b : Nat} {g : FieldLevel} (h : LaneCircuits reuse f m b g) (d x y : LaneName) :
      LaneCircuits reuse f (m + 64) b (fieldXor reuse d x y g)
  | add {m b : Nat} {g : FieldLevel} (h : LaneCircuits reuse f m b g) (d x y : LaneName) :
      LaneCircuits reuse f m (b + 65) (fieldAdd d x y g)
  | addm {m b : Nat} {g : FieldLevel} (h : LaneCircuits reuse f m b g) (d x y : LaneName) (z : MsgIndex) :
      LaneCircuits reuse f m (b + 66) (fieldAddm d x y z g)
  | rotr {m b : Nat} {g : FieldLevel} (h : LaneCircuits reuse f m b g) (d x : LaneName) (k : Nat) :
      LaneCircuits reuse f m b (fieldRotr reuse d x k g)

theorem LaneCircuits.trans {m b m' b' : Nat} (h₁ : LaneCircuits reuse f m b g) (h₂ : LaneCircuits reuse g m' b' k) :
    LaneCircuits reuse f (m + m') (b + b') k := by
  induction h₂ with
  | refl => exact h₁
  | xor _ d x y ih => exact ih.xor d x y
  | add _ d x y ih => exact ih.add d x y
  | addm _ d x y z ih => exact ih.addm d x y z
  | rotr _ d x k ih => exact ih.rotr d x k

theorem laneCircuits_foldl {α : Type} {m b : Nat} {step : FieldLevel → α → FieldLevel}
    (h : ∀ f a, LaneCircuits reuse f m b (step f a)) (l : List α) (f : FieldLevel) :
    LaneCircuits reuse f (l.length * m) (l.length * b) (l.foldl step f) := by
  induction l generalizing f with
  | nil => simpa using LaneCircuits.refl
  | cons a l ih =>
    rw [List.length_cons, Nat.succ_mul, Nat.succ_mul, Nat.add_comm _ m, Nat.add_comm _ b]
    exact (h f a).trans (ih _)

/-- Steps 2, 4, 6 and 8 of G. -/
theorem LaneCircuits.xorRotr {m b : Nat} (h : LaneCircuits reuse f m b g) (d a : LaneName) (k : Nat) :
    LaneCircuits reuse f (m + 64) b (fieldXorRotr reuse d a k g) := (h.xor d d a).rotr d d k

/-- G's circuit (R76): four XORs, two trims of 66 bits and two of 65. -/
theorem laneCircuits_fieldMix (reuse : Bool) (f : FieldLevel) (a b c d : WorkIndex) (x y : MsgIndex) :
    LaneCircuits reuse f 256 262 (fieldMix reuse a b c d x y f) :=
  (((((((LaneCircuits.refl.addm (.v a) (.v a) (.v b) x).xorRotr (.v d) (.v a) 32).add (.v c) (.v c) (.v d)).xorRotr
    (.v b) (.v c) 24).addm (.v a) (.v a) (.v b) y).xorRotr (.v d) (.v a) 16).add (.v c) (.v c) (.v d)).xorRotr
    (.v b) (.v c) 63

theorem laneCircuits_fieldRound (reuse : Bool) (f : FieldLevel) (q : Vector (Fin 16) 16) :
    LaneCircuits reuse f (8 * 256) (8 * 262) (fieldRound reuse q f) := by
  rw [fieldRound_eq_foldl]
  exact laneCircuits_foldl (fun f c => laneCircuits_fieldMix reuse f ..) (roundCalls q) f

theorem laneCircuits_rounds (reuse : Bool) (f : FieldLevel) (rows : List (Vector (Fin 16) 16)) :
    LaneCircuits reuse f (rows.length * (8 * 256)) (rows.length * (8 * 262))
      (rows.foldl (fun f q => fieldRound reuse q f) f) :=
  laneCircuits_foldl (fun f q => laneCircuits_fieldRound reuse f q) rows f

/-- FEED's circuit before v is given up (R84): two XORs a lane. -/
theorem laneCircuits_feedLanes (reuse : Bool) (f : FieldLevel) :
    LaneCircuits reuse f (8 * 128) 0 (feedOrder.foldl (fieldFeedLane reuse) f) :=
  laneCircuits_foldl (fun _ _ => (LaneCircuits.refl.xor ..).xor ..) feedOrder f

/-! ### The record only grows (R24) -/

theorem LaneCircuits.extends {m b : Nat} (h : LaneCircuits reuse f m b g) : Extends f.arena g.arena := by
  induction h with
  | refl => exact .refl _
  | xor _ d x y ih => exact ih.trans (by rw [fieldXor, FieldLevel.put_arena]; exact extends_xorRep ..)
  | add _ d x y ih => exact ih.trans (by rw [fieldAdd, FieldLevel.put_arena]; exact extends_explode ..)
  | addm _ d x y z ih => exact ih.trans (by rw [fieldAddm, FieldLevel.put_arena]; exact extends_explode ..)
  | rotr _ d x k ih => exact ih.trans (by rw [fieldRotr, FieldLevel.put_arena]; exact extends_bitsOf ..)

theorem fieldSeed_arena (upper : Vector Word64 8) (f : FieldLevel) : (fieldSeed upper f).arena = f.arena := by
  simp only [fieldSeed]

theorem extends_fieldFeed (reuse : Bool) (f : FieldLevel) : Extends f.arena (fieldFeed reuse f).arena :=
  (laneCircuits_feedLanes reuse f).extends

theorem extends_fieldCompress (p : Config.Params) (upper : Vector Word64 8) (rows : List (Vector (Fin 16) 16))
    (f : FieldLevel) : Extends f.arena (fieldCompress p upper rows f).arena := by
  have rounds := (laneCircuits_rounds p.reuseExploded (fieldSeed upper f) rows).extends
  rw [fieldSeed_arena] at rounds
  exact rounds.trans (extends_fieldFeed ..)

theorem extends_fieldStore (reuse : Bool) (f : FieldLevel) : Extends f.arena (fieldStore reuse f).arena :=
  (((extends_storeLane ..).trans (extends_storeLane ..)).trans (extends_storeLane ..)).trans (extends_storeLane ..)

/-- A command that completes appends to the record. -/
theorem completed_extends (i : Instr) (s : State) : Extends s.field.arena (completed i s).field.arena := by
  cases i with
  | xor rd rs1 rs2 => simpa [completed] using (LaneCircuits.refl.xor ..).extends
  | add rd rs1 rs2 => simpa [completed] using (LaneCircuits.refl.add (reuse := true) ..).extends
  | addm rd rs1 rs2 mx => simpa [completed] using (LaneCircuits.refl.addm (reuse := true) ..).extends
  | rotr rd rs1 amt => simpa [completed] using (LaneCircuits.refl.rotr ..).extends
  | g a b c d x y => simpa [completed] using (laneCircuits_fieldMix ..).extends
  | round r => simpa [completed] using (laneCircuits_fieldRound ..).extends
  | init => simpa [completed, fieldInit] using Extends.refl _
  | ldchunk k => simpa [completed, fieldLoad] using extends_explodeBytes ..
  | seed f => simpa [completed, fieldSeed] using Extends.refl _
  | feed => simpa [completed] using extends_fieldFeed ..
  | compress f => simpa [completed] using extends_fieldCompress ..
  | stdig => simpa [completed] using extends_fieldStore ..

/-- Settles O53: a step that completes a command appends; of the host's moves but reset the port's input wire appends, and
the others leave the record. -/
theorem recordIsAppendOnly : Obligations.RecordIsAppendOnly := by
  refine ⟨fun s t h => ?_, fun s t mv h notReset => ?_⟩
  · rcases step_next h with ⟨c, _, rfl⟩ | ⟨i, _, _, _, rfl⟩
    · exact ⟨[], (List.append_nil _).symm⟩
    · exact (completed_extends i s).record
  · have keeps (same : t.field.arena.record = s.field.arena.record) :
        (∃ new, t.field.arena.record = s.field.arena.record ++ new) ∧
          ((∀ n value, mv ≠ .writeLane .inputWire n value) → t.field.arena.record = s.field.arena.record) :=
      ⟨⟨[], by rw [same, List.append_nil]⟩, fun _ => same⟩
    rcases hostMove_some h with ⟨reset, _⟩ | ⟨a, _, _, _, rfl⟩ | ⟨_, _, _, _, _, rfl⟩ | ⟨form, n, value, rfl, _, rfl⟩ |
      ⟨_, _, _, _, rfl⟩ | ⟨_, _, rfl⟩ | ⟨witness, _, _, rfl⟩
    · exact absurd reset notReset
    · refine keeps ?_
      rcases construct_cases s a with ⟨_, e⟩ | ⟨_, _, e⟩ | ⟨_, _, e⟩ <;> rw [e] <;> rfl
    · exact keeps rfl
    · rcases portWrite_cases s form n value with ⟨_, _, e⟩ | ⟨_, rfl, e⟩ | ⟨_, e⟩ <;> rw [e] at keeps ⊢
      · exact keeps (by simp [State.portConstant, fieldConst])
      · exact ⟨⟨_, (fieldInput_arena n s.field).2⟩, fun other => absurd rfl (other n value)⟩
      · exact keeps rfl
    · exact keeps rfl
    · exact keeps rfl
    · refine keeps ?_
      rcases judge_cases s witness with e | ⟨c, _, _, e⟩ <;> simp [e]

/-! ### What the circuits cost (R138) -/

/-- Between the two arenas exactly `m` products and at least `b` booleanity constraints are emitted. -/
structure Costs (ar ar' : Arena) (m b : Nat) : Prop where
  products : ar'.multiplications = ar.multiplications + m
  booleans : ar.booleanities + b ≤ ar'.booleanities

theorem Costs.refl (ar : Arena) : Costs ar ar 0 0 := ⟨rfl, le_rfl⟩

theorem Costs.trans {m b m' b' : Nat} (h₁ : Costs ar ar₁ m b) (h₂ : Costs ar₁ ar₂ m' b') :
    Costs ar ar₂ (m + m') (b + b') :=
  ⟨by rw [h₂.products, h₁.products, Nat.add_assoc],
    by rw [← Nat.add_assoc]; exact (Nat.add_le_add_right h₁.booleans b').trans h₂.booleans⟩

theorem Costs.mono {m b b' : Nat} (h : Costs ar ar₁ m b) (le : b' ≤ b) : Costs ar ar₁ m b' :=
  ⟨h.products, (Nat.add_le_add_left le _).trans h.booleans⟩

theorem costs_explode (n : Nat) (w : Wire) (ar : Arena) : Costs ar (explode n w ar).2 0 n := by
  constructor
  · simp [Arena.multiplications, explodeConstraints, List.countP_append, List.countP_map, Function.comp_def,
      Constraint.isMultiplication]
  · simp [Arena.booleanities, explodeConstraints, List.countP_append, List.countP_map, Function.comp_def,
      Constraint.isBooleanity]

theorem countP_xorConstraints : ∀ (xs ys : List Wire) (n : Nat),
    (xorConstraints xs ys n).countP Constraint.isMultiplication = min xs.length ys.length
  | [], ys, n => by simp [xorConstraints]
  | x :: xs, [], n => by simp [xorConstraints]
  | x :: xs, y :: ys, n => by
    rw [xorConstraints, List.countP_cons_of_pos rfl, countP_xorConstraints xs ys, List.length_cons, List.length_cons,
      Nat.succ_min_succ]

/-- A lane holds 64 exploded bits or none. -/
def LaneRep.Wide (r : LaneRep) : Prop := ∀ bits, r.bits = some bits → bits.length = 64

theorem costs_bitsOf {r : LaneRep} (wide : r.Wide) (reuse : Bool) (ar : Arena) :
    (bitsOf reuse r ar).1.length = 64 ∧ Costs ar (bitsOf reuse r ar).2 0 0 := by
  rcases bitsOf_cases reuse r ar with ⟨bits, _, held, e⟩ | e <;> rw [e]
  · exact ⟨wide bits held, .refl ar⟩
  · exact ⟨length_newWires .., (costs_explode ..).mono (Nat.zero_le _)⟩

theorem wide_ofBits {bits : List Wire} (width : bits.length = 64) : (LaneRep.ofBits bits).Wide := fun _ e => by
  cases e
  exact width

/-- An XOR emits 64 products, whatever its operands hold exploded. -/
theorem costs_xorRep {a b : LaneRep} (ha : a.Wide) (hb : b.Wide) (reuse : Bool) (ar : Arena) :
    (xorRep reuse a b ar).1.Wide ∧ Costs ar (xorRep reuse a b ar).2 64 0 := by
  obtain ⟨widthA, costA⟩ := costs_bitsOf ha reuse ar
  obtain ⟨widthB, costB⟩ := costs_bitsOf hb reuse (bitsOf reuse a ar).2
  refine ⟨wide_ofBits (by rw [length_xorBits, widthA, widthB, Nat.min_self]), ?_⟩
  have products : Costs (bitsOf reuse b (bitsOf reuse a ar).2).2 (xorRep reuse a b ar).2 64 0 := by
    constructor
    · simp [xorRep, Arena.multiplications, Arena.emit, countP_xorConstraints, widthA, widthB]
    · simp [xorRep, Arena.booleanities, Arena.emit]
  exact (costA.trans costB).trans products

theorem costs_trim {n : Nat} (wide : 64 ≤ n) (w : Wire) (ar : Arena) :
    (trim n w ar).1.Wide ∧ Costs ar (trim n w ar).2 0 n :=
  ⟨wide_ofBits (by simpa using wide), costs_explode ..⟩

theorem costs_rotrRep {a : LaneRep} (ha : a.Wide) (reuse : Bool) (k : Nat) (ar : Arena) :
    (rotrRep reuse k a ar).1.Wide ∧ Costs ar (rotrRep reuse k a ar).2 0 0 := by
  obtain ⟨width, cost⟩ := costs_bitsOf ha reuse ar
  exact ⟨wide_ofBits (by rw [List.length_rotate, width]), cost⟩

/-- Every lane holds 64 exploded bits or none. -/
def FieldLevel.Wide (f : FieldLevel) : Prop := ∀ n, (f.rep n).Wide

theorem FieldLevel.Wide.put (wide : f.Wide) (d : LaneName) {r : LaneRep × Arena} (hr : r.1.Wide) : (f.put d r).Wide := by
  intro n
  by_cases eq : n = d
  · subst eq
    rw [FieldLevel.rep_put_self]
    exact hr
  · rw [FieldLevel.rep_put_ne _ _ eq]
    exact wide n

/-- The counts of a chain of lane circuits are what it costs. -/
theorem LaneCircuits.costs {m b : Nat} (h : LaneCircuits reuse f m b g) (wide : f.Wide) :
    g.Wide ∧ Costs f.arena g.arena m b := by
  induction h with
  | refl => exact ⟨wide, .refl _⟩
  | @xor _ _ g _ d x y ih =>
    obtain ⟨wide, cost⟩ := ih
    obtain ⟨result, cost'⟩ := costs_xorRep (wide x) (wide y) reuse g.arena
    exact ⟨wide.put d result, by rw [fieldXor, FieldLevel.put_arena]; exact cost.trans cost'⟩
  | @add _ _ g _ d x y ih =>
    obtain ⟨wide, cost⟩ := ih
    obtain ⟨result, cost'⟩ := costs_trim (n := 65) (by decide) ((g.rep x).packed.add (g.rep y).packed) g.arena
    exact ⟨wide.put d result, by rw [fieldAdd, FieldLevel.put_arena]; exact cost.trans cost'⟩
  | @addm _ _ g _ d x y z ih =>
    obtain ⟨wide, cost⟩ := ih
    obtain ⟨result, cost'⟩ := costs_trim (n := 66) (by decide)
      (((g.rep x).packed.add (g.rep y).packed).add (g.rep (.m z)).packed) g.arena
    exact ⟨wide.put d result, by rw [fieldAddm, FieldLevel.put_arena]; exact cost.trans cost'⟩
  | @rotr _ _ g _ d x k ih =>
    obtain ⟨wide, cost⟩ := ih
    obtain ⟨result, cost'⟩ := costs_rotrRep (wide x) reuse k g.arena
    exact ⟨wide.put d result, by rw [fieldRotr, FieldLevel.put_arena]; exact cost.trans cost'⟩

/-- SEED's lanes of v are copies of h and constants (R83). -/
theorem FieldLevel.Wide.seed (wide : f.Wide) (upper : Vector Word64 8) : (fieldSeed upper f).Wide := by
  intro n
  cases n with
  | v i =>
    simp only [FieldLevel.rep, fieldSeed, Fin.getElem_fin, Vector.getElem_ofFn]
    split
    next lt => exact wide (.h ⟨i.val, lt⟩)
    next => exact nofun
  | h i =>
    rw [FieldLevel.rep, (sameButV_fieldSeed f upper).h]
    exact wide (.h i)
  | m i =>
    rw [FieldLevel.rep, (sameButV_fieldSeed f upper).m]
    exact wide (.m i)

/-- COMPRESS emits 8 G calls' products in each of its rounds, and those of FEED (R85). -/
theorem costs_fieldCompress (wide : f.Wide) (p : Config.Params) (upper : Vector Word64 8)
    (rows : List (Vector (Fin 16) 16)) : ∃ b, Costs f.arena (fieldCompress p upper rows f).arena
      (rows.length * (8 * 256) + 8 * 128) b := by
  obtain ⟨wide', cost⟩ := (laneCircuits_rounds p.reuseExploded (fieldSeed upper f) rows).costs (wide.seed upper)
  rw [fieldSeed_arena] at cost
  exact ⟨_, cost.trans ((laneCircuits_feedLanes p.reuseExploded _).costs wide').2⟩

/-- A command that adds one to cp has completed. -/
theorem completed_of_exec_cp {i : Instr} {s t : State} (h : exec i s = .next t) (cp : t.cp = s.cp + 1) :
    t = completed i s := by
  rcases exec_next h with e | ⟨c, rfl⟩
  · exact e
  · exact absurd cp (by simp)

/-- Settles O54, from the counts of the chains of lane circuits that G and COMPRESS are. -/
theorem constraintCost : Obligations.ConstraintCost := by
  intro s t wide
  refine ⟨fun a b c d x y h cp => ?_, fun f h cp => ?_⟩
  · obtain rfl := completed_of_exec_cp h cp
    obtain ⟨_, cost⟩ := (laneCircuits_fieldMix s.params.reuseExploded s.field a b c d x y).costs wide
    simp only [completed, State.advance_field, State.setField_field]
    exact ⟨cost.products, cost.booleans⟩
  · obtain rfl := completed_of_exec_cp h cp
    obtain ⟨_, cost⟩ := costs_fieldCompress wide s.params (seedUpper s.params (s.t.getD 0) f) (scheduleRows s.params)
    simp only [completed, State.advance_field, State.setField_field, cost.products]
    simp [scheduleRows, Config.numRounds]

end Sys2Proof.Machine
end

section
/-! PROOFS. Every circuit mentions allocated wires only (00_scope.md R8, 10_state.md R24). -/

namespace Sys2Proof.Machine

variable {n k : Nat} {bits xs ys : List Wire} {w : Wire} {ar : Arena} {f g : FieldLevel} {reuse : Bool}

/-- Every constraint of the record mentions allocated wires only. -/
def Arena.Closed (ar : Arena) : Prop := ∀ c ∈ ar.record, c.Below ar.nextWire

/-- The wires all mention wires below the bound only. -/
def AllBelow (n : Nat) (bits : List Wire) : Prop := ∀ b ∈ bits, b.Below n

theorem AllBelow.mono (h : AllBelow n bits) (le : n ≤ k) : AllBelow k bits := fun b mem => (h b mem).mono le

theorem below_pack (h : AllBelow n bits) : (pack bits).Below n := by
  induction bits with
  | nil => trivial
  | cons b bits ih =>
    obtain ⟨head, tail⟩ := List.forall_mem_cons.1 h
    exact ⟨head, ih tail⟩

theorem allBelow_newWires (n start : Nat) : AllBelow (start + n) (newWires n start) := by
  intro b mem
  rw [newWires_eq_map] at mem
  obtain ⟨i, lt, rfl⟩ := List.mem_map.1 mem
  exact Nat.add_lt_add_left (List.mem_range.1 lt) start

theorem below_ofBits (h : AllBelow n bits) : (LaneRep.ofBits bits).Below n :=
  ⟨below_pack h, fun _ e => by cases e; exact h⟩

theorem below_ofWord (n : Nat) (x : Word64) : (LaneRep.ofWord x).Below n := ⟨trivial, nofun⟩

theorem below_unwritten (n : Nat) : LaneRep.unwritten.Below n := ⟨trivial, nofun⟩

/-- Appended constraints that mention allocated wires only. -/
theorem Arena.Closed.emit (h : ar.Closed) {cs : List Constraint} (below : ∀ c ∈ cs, c.Below (ar.nextWire + n)) :
    (ar.emit n cs).Closed := by
  intro c mem
  rcases List.mem_append.1 mem with old | new
  · exact (h c old).mono (Nat.le_add_right _ n)
  · exact below c new

/-- The circuit's arena is closed, and its wires are allocated. -/
theorem closed_explode (h : ar.Closed) (hw : w.Below ar.nextWire) (n : Nat) :
    (explode n w ar).2.Closed ∧ AllBelow (explode n w ar).2.nextWire (explode n w ar).1 := by
  have new := allBelow_newWires n ar.nextWire
  refine ⟨h.emit fun c mem => ?_, new⟩
  rcases List.mem_append.1 mem with boolean | linear
  · obtain ⟨b, fresh, rfl⟩ := List.mem_map.1 boolean
    exact new b fresh
  · rw [List.mem_singleton.1 linear]
    exact ⟨below_pack new, hw.mono (Nat.le_add_right _ n)⟩

theorem closed_trim (h : ar.Closed) (hw : w.Below ar.nextWire) (n : Nat) :
    (trim n w ar).2.Closed ∧ (trim n w ar).1.Below (trim n w ar).2.nextWire := by
  obtain ⟨closed, new⟩ := closed_explode h hw n
  exact ⟨closed, below_ofBits fun b mem => new b (List.mem_of_mem_take mem)⟩

theorem closed_bitsOf {r : LaneRep} (h : ar.Closed) (hr : r.Below ar.nextWire) (reuse : Bool) :
    (bitsOf reuse r ar).2.Closed ∧ AllBelow (bitsOf reuse r ar).2.nextWire (bitsOf reuse r ar).1 := by
  rcases bitsOf_cases reuse r ar with ⟨bits, _, held, e⟩ | e <;> rw [e]
  · exact ⟨h, hr.2 bits held⟩
  · exact closed_explode h hr.1 64

theorem below_xorBits (le : n ≤ k) : ∀ {xs ys : List Wire} {start : Nat}, AllBelow n xs → AllBelow n ys →
    start + (xorBits xs ys start).length ≤ k →
    AllBelow k (xorBits xs ys start) ∧ ∀ c ∈ xorConstraints xs ys start, c.Below k
  | [], ys, start, _, _, _ => ⟨nofun, nofun⟩
  | x :: xs, [], start, _, _, _ => ⟨nofun, nofun⟩
  | x :: xs, y :: ys, start, hx, hy, room => by
    obtain ⟨hx, hxs⟩ := List.forall_mem_cons.1 hx
    obtain ⟨hy, hys⟩ := List.forall_mem_cons.1 hy
    rw [xorBits, List.length_cons] at room
    obtain ⟨wires, constraints⟩ := below_xorBits le (start := start + 1) hxs hys (by omega)
    have product : (Wire.ofId start).Below k := by show start < k; omega
    exact ⟨List.forall_mem_cons.2 ⟨⟨⟨hx.mono le, hy.mono le⟩, product⟩, wires⟩,
      List.forall_mem_cons.2 ⟨⟨product, hx.mono le, hy.mono le⟩, constraints⟩⟩

theorem closed_xorRep {a b : LaneRep} (h : ar.Closed) (ha : a.Below ar.nextWire) (hb : b.Below ar.nextWire)
    (reuse : Bool) : (xorRep reuse a b ar).2.Closed ∧ (xorRep reuse a b ar).1.Below (xorRep reuse a b ar).2.nextWire := by
  obtain ⟨closedA, bitsA⟩ := closed_bitsOf h ha reuse
  obtain ⟨closedB, bitsB⟩ := closed_bitsOf closedA (hb.mono (extends_bitsOf reuse a ar).wires) reuse
  obtain ⟨wires, constraints⟩ := below_xorBits (Nat.le_add_right _ _)
    (bitsA.mono (extends_bitsOf reuse b _).wires) bitsB le_rfl
  exact ⟨closedB.emit constraints, below_ofBits wires⟩

theorem closed_rotrRep {a : LaneRep} (h : ar.Closed) (ha : a.Below ar.nextWire) (reuse : Bool) (k : Nat) :
    (rotrRep reuse k a ar).2.Closed ∧ (rotrRep reuse k a ar).1.Below (rotrRep reuse k a ar).2.nextWire := by
  obtain ⟨closed, bits⟩ := closed_bitsOf h ha reuse
  exact ⟨closed, below_ofBits fun b mem => bits b (List.mem_rotate.1 mem)⟩

/-! ### The field level -/

theorem allocated_iff : f.Allocated ↔
    f.arena.Closed ∧ (∀ n, (f.rep n).Below f.arena.nextWire) ∧ AllBelow f.arena.nextWire f.out := by
  constructor
  · rintro ⟨record, v, h, m, out⟩
    refine ⟨record, fun n => ?_, out⟩
    cases n with
    | v i => exact v i
    | h i => exact h i
    | m i => exact m i
  · rintro ⟨record, rep, out⟩
    exact ⟨record, fun i => rep (.v i), fun i => rep (.h i), fun i => rep (.m i), out⟩

theorem FieldLevel.Allocated.rep_below (h : f.Allocated) (n : LaneName) : (f.rep n).Below f.arena.nextWire :=
  (allocated_iff.1 h).2.1 n

/-- A lane put with a circuit that is allocated. -/
theorem FieldLevel.Allocated.put (h : f.Allocated) (d : LaneName) {r : LaneRep × Arena}
    (le : f.arena.nextWire ≤ r.2.nextWire) (closed : r.2.Closed ∧ r.1.Below r.2.nextWire) : (f.put d r).Allocated := by
  obtain ⟨_, rep, out⟩ := allocated_iff.1 h
  refine allocated_iff.2 ⟨by rw [FieldLevel.put_arena]; exact closed.1, fun n => ?_, ?_⟩
  · rw [FieldLevel.put_arena]
    by_cases eq : n = d
    · subst eq
      rw [FieldLevel.rep_put_self]
      exact closed.2
    · rw [FieldLevel.rep_put_ne _ _ eq]
      exact (rep n).mono le
  · rw [FieldLevel.put_arena, FieldLevel.put_out]
    exact out.mono le

theorem LaneCircuits.allocated {m b : Nat} (h : LaneCircuits reuse f m b g) (alloc : f.Allocated) : g.Allocated := by
  induction h with
  | refl => exact alloc
  | xor _ d x y ih =>
    exact ih.put d (extends_xorRep ..).wires (closed_xorRep ih.record (ih.rep_below x) (ih.rep_below y) reuse)
  | add _ d x y ih =>
    exact ih.put d (extends_explode ..).wires
      (closed_trim ih.record (w := .add _ _) ⟨(ih.rep_below x).1, (ih.rep_below y).1⟩ _)
  | addm _ d x y z ih =>
    exact ih.put d (extends_explode ..).wires
      (closed_trim ih.record (w := .add (.add _ _) _)
        ⟨⟨(ih.rep_below x).1, (ih.rep_below y).1⟩, (ih.rep_below (.m z)).1⟩ _)
  | rotr _ d x k ih =>
    exact ih.put d (extends_bitsOf ..).wires (closed_rotrRep ih.record (ih.rep_below x) reuse k)

end Sys2Proof.Machine
end

section
/-! PROOFS. How a state comes to have a correct circuit (00_scope.md R9): new wires whose values are forced, and lanes that
mean what they hold. -/

namespace Sys2Proof.Machine

variable {s t : State} {assign assign' : Nat → Int}

/-! ### What the witnesses of a state see -/

/-- The wire is one of the message's input wires. -/
def IsInput (s : State) (n : Nat) : Prop := s.built = true ∧ s.inputBase ≤ n ∧ n < s.inputBase + s.nIn

/-- The two states have the same field, the same gadget where one is built, and the same input wires of the port. -/
structure SameInputs (s t : State) : Prop where
  params : t.params = s.params
  built : t.built = s.built
  portInputs : t.portInputs = s.portInputs
  gadget : s.built = true → t.len = s.len ∧ t.nIn = s.nIn ∧ t.inputBase = s.inputBase ∧ t.buf = s.buf

theorem SameHostSide.sameInputs (h : SameHostSide s t) : SameInputs s t :=
  ⟨h.params, h.built, h.portInputs, fun _ => ⟨h.len, h.nIn, h.inputBase, h.buf⟩⟩

/-- A witness of the later state is one of the earlier whose new constraints hold. -/
theorem SameInputs.witness_iff (h : SameInputs s t) {new : List Constraint}
    (record : t.field.arena.record = s.field.arena.record ++ new) :
    Witness t assign ↔ Witness s assign ∧ Satisfies s.params.fieldPrime assign new := by
  have inputs : (t.built = true → ∀ i < t.len, assign (t.inputBase + i) % (t.params.fieldPrime : Int) =
        (t.bufByte (128 + i)).toNat) ↔
      (s.built = true → ∀ i < s.len, assign (s.inputBase + i) % (s.params.fieldPrime : Int) =
        (s.bufByte (128 + i)).toNat) := by
    rw [h.built, h.params]
    refine forall_congr' fun built => ?_
    obtain ⟨len, _, base, buf⟩ := h.gadget built
    simp only [len, base, bufByte_congr len buf]
  constructor
  · rintro ⟨sat, inputsT, port⟩
    rw [h.params, record, satisfies_append] at sat
    rw [h.params, h.portInputs] at port
    exact ⟨⟨sat.1, inputs.1 inputsT, port⟩, sat.2⟩
  · rintro ⟨⟨sat, inputsS, port⟩, sat'⟩
    refine ⟨?_, inputs.2 inputsS, ?_⟩
    · rw [h.params, record, satisfies_append]
      exact ⟨sat, sat'⟩
    · rw [h.params, h.portInputs]
      exact port

theorem SameInputs.isInput_iff (h : SameInputs s t) (n : Nat) : IsInput t n ↔ IsInput s n := by
  rw [IsInput, IsInput, h.built]
  refine and_congr_right fun built => ?_
  obtain ⟨_, nIn, base, _⟩ := h.gadget built
  rw [nIn, base]

/-- Whether an assignment is a witness depends on the allocated wires alone. -/
theorem CircuitCorrect.witness_congr (h : CircuitCorrect s) (witness : Witness s assign)
    (agree : AgreeBelow s.field.arena.nextWire assign assign') : Witness s assign' := by
  refine ⟨fun c mem => ((h.allocated.record c mem).holds_congr agree).2 (witness.satisfies c mem), fun built i lt => ?_,
    fun c mem => ?_⟩
  · obtain ⟨len, room⟩ := h.inputWires built
    rw [agree _ (by omega)]
    exact witness.inputs built i lt
  · rw [agree _ (h.portWires c mem)]
    exact witness.portInputs c mem

/-! ### Growing a correct circuit -/

/-- The new wires have forced values, but for message inputs, and a witness of the old circuit extends to the new: the
new circuit is correct when its lanes mean what they hold. -/
theorem CircuitCorrect.grow (h : CircuitCorrect s) (params : t.params = s.params) (values : Nat → Int)
    (old : ∀ a, Witness t a → Witness s a)
    (forced : ∀ a, Witness t a → ∀ i, s.field.arena.nextWire ≤ i → i < t.field.arena.nextWire → ¬ IsInput t i →
      a i % (s.params.fieldPrime : Int) = values i % (s.params.fieldPrime : Int))
    (solved : ∀ a, Witness s a → (∀ i, s.field.arena.nextWire ≤ i → a i = values i) → Witness t a)
    (inputs : ∀ n, IsInput s n → IsInput t n) (sound : ∀ a, Witness t a → Corresponds t a) (alloc : t.field.Allocated)
    (inputWires : t.built = true → t.len ≤ t.nIn ∧ t.inputBase + t.nIn ≤ t.field.arena.nextWire)
    (portWires : ∀ c ∈ t.portInputs, c.1 < t.field.arena.nextWire) : CircuitCorrect t where
  prime := params ▸ h.prime
  large := params ▸ h.large
  allocated := alloc
  inputWires := inputWires
  portWires := portWires
  sound := sound
  complete := by
    obtain ⟨a, witness⟩ := h.complete
    exact ⟨_, solved _ (h.witness_congr witness (agreeBelow_extendAt _ a values)) fun i le => extendAt_of_le le a values⟩
  unique := by
    intro a a' witness witness' n lt notInput
    rw [params]
    by_cases fresh : s.field.arena.nextWire ≤ n
    · rw [forced a witness n fresh lt notInput, forced a' witness' n fresh lt notInput]
    · exact h.unique a a' (old a witness) (old a' witness') n (Nat.not_le.1 fresh) fun input => notInput (inputs n input)

/-- A command's circuit that forces its new wires, and under which the lanes mean what they hold. -/
theorem CircuitCorrect.of_forces (h : CircuitCorrect s) (same : SameInputs s t) (alloc : t.field.Allocated)
    (forces : Forces s.params.fieldPrime (Witness s) s.field.arena t.field.arena (Corresponds t)) : CircuitCorrect t := by
  obtain ⟨le, new, values, record, forced⟩ := forces
  have witness {a : Nat → Int} := same.witness_iff (assign := a) record
  refine h.grow same.params values (fun a w => (witness.1 w).1) (fun a w i le lt _ => ?_) (fun a w solved => ?_)
    (fun n => (same.isInput_iff n).2) (fun a w => ?_) alloc (fun built => ?_) fun c mem => ?_
  · obtain ⟨w, sat⟩ := witness.1 w
    exact (forced a w).1.1 sat i le lt
  · exact witness.2 ⟨w, (forced a w).1.2 fun i le _ => by rw [solved i le]⟩
  · obtain ⟨w, sat⟩ := witness.1 w
    exact (forced a w).2 sat
  · have built := same.built.symm.trans built
    obtain ⟨len, nIn, base, _⟩ := same.gadget built
    obtain ⟨fits, room⟩ := h.inputWires built
    rw [len, nIn, base]
    exact ⟨fits, room.trans le⟩
  · exact (h.portWires c (same.portInputs ▸ mem)).trans_le le

/-! ### Lanes and output bytes that mean what they hold -/

/-- Every lane that holds a value means it. -/
def LanesMean (s : State) (assign : Nat → Int) : Prop :=
  ∀ n x, s.lane n = some x → (s.field.rep n).Means s.params.fieldPrime assign x

/-- Every byte of Out that holds a value is the value of its wire. -/
def OutMeans (s : State) (assign : Nat → Int) : Prop :=
  ∀ a b, readByte outUnlisted s.out a = some b →
    ∃ w, s.field.out[a]? = some w ∧ w.value s.params.fieldPrime assign = b.toNat

theorem corresponds_iff : Corresponds s assign ↔ LanesMean s assign ∧ OutMeans s assign := by
  constructor
  · rintro ⟨v, h, m, out⟩
    refine ⟨fun n x held => ?_, out⟩
    cases n with
    | v i => exact v i x held
    | h i => exact h i x held
    | m i => exact m i x held
  · rintro ⟨lanes, out⟩
    exact ⟨fun i => lanes (.v i), fun i => lanes (.h i), fun i => lanes (.m i), out⟩

/-- Out and its wires are as before. -/
theorem OutMeans.congr (h : OutMeans s assign) (params : t.params = s.params) (out : t.out = s.out)
    (wires : t.field.out = s.field.out) : OutMeans t assign := by
  intro a b held
  rw [params, wires]
  exact h a b (out ▸ held)

/-- Nothing that the circuit or the lanes consist of has changed. -/
theorem CircuitCorrect.congr (h : CircuitCorrect s) (same : SameInputs s t) (lanes : ∀ n, t.lane n = s.lane n)
    (out : t.out = s.out) (field : t.field = s.field) : CircuitCorrect t := by
  refine h.of_forces same (field ▸ h.allocated) ?_
  rw [field]
  refine Forces.refl fun a witness => ?_
  obtain ⟨mean, bytes⟩ := corresponds_iff.1 (h.sound a witness)
  refine corresponds_iff.2 ⟨fun n x held => ?_, bytes.congr same.params out (by rw [field])⟩
  rw [field, same.params]
  exact mean n x (lanes n ▸ held)

/-- A circuit that is allocated, forces its result, and is put in a lane that takes the result. -/
theorem CircuitCorrect.put (h : CircuitCorrect s) (same : SameInputs s t) {d : LaneName} {x : Word64}
    {r : LaneRep × Arena} (field : t.field = s.field.put d r) (written : t.lane d = some x)
    (others : ∀ n, n ≠ d → t.lane n = s.lane n) (out : t.out = s.out)
    (closed : r.2.Closed ∧ r.1.Below r.2.nextWire)
    (forces : Forces s.params.fieldPrime (fun a => Witness s a ∧ LanesMean s a) s.field.arena r.2
      fun a => r.1.Means s.params.fieldPrime a x) : CircuitCorrect t := by
  refine h.of_forces same (by rw [field]; exact h.allocated.put d forces.1 closed) ?_
  rw [field, FieldLevel.put_arena]
  have sound (a : Nat → Int) (w : Witness s a) := corresponds_iff.1 (h.sound a w)
  refine (forces.frame (other := Corresponds s)).mono (fun a w => ⟨⟨w, (sound a w).1⟩, h.sound a w⟩) ?_
  rintro a ⟨result, before⟩
  obtain ⟨mean, bytes⟩ := corresponds_iff.1 before
  refine corresponds_iff.2 ⟨fun n y held => ?_, bytes.congr same.params out (by rw [field, FieldLevel.put_out])⟩
  rw [field, same.params]
  by_cases eq : n = d
  · subst eq
    rw [FieldLevel.rep_put_self, ← Option.some.inj (written.symm.trans held)]
    exact result
  · rw [FieldLevel.rep_put_ne _ _ eq]
    exact mean n y (others n eq ▸ held)

end Sys2Proof.Machine
end

section
/-! PROOFS. The lane commands, G, ROUND, INIT, SEED, FEED and COMPRESS keep the circuit correct (00_scope.md R9,
40_lane_arithmetic.md R73). -/

namespace Sys2Proof.Machine

variable {s t : State} {assign : Nat → Int}

theorem CircuitCorrect.room (h : CircuitCorrect s) : 2 ^ 64 ≤ s.params.fieldPrime := by
  have := h.large
  omega

/-- The command, where it completes, keeps the circuit correct. -/
def KeepsCorrect (i : Instr) : Prop :=
  ∀ s, CircuitCorrect s → s.fault = 0 → i.wellFormed = true → ¬ OperandUnwritten s i → CircuitCorrect (completed i s)

/-! ### The lane commands (R66 to R70) -/

section Lane

variable (h : CircuitCorrect s) {a b : LaneName} {x y z : Word64} (d : LaneName)
include h

theorem CircuitCorrect.writeResult {r : LaneRep × Arena} (closed : r.2.Closed ∧ r.1.Below r.2.nextWire)
    (forces : Forces s.params.fieldPrime (LanesMean s) s.field.arena r.2 fun a => r.1.Means s.params.fieldPrime a x) :
    CircuitCorrect (s.writeResult d x (s.field.put d r)) :=
  h.put ⟨by simp, by simp, by simp, fun _ => by simp⟩ (s.writeResult_field ..) (s.lane_writeResult_self ..)
    (fun _ ne => s.lane_writeResult_ne ne ..) (s.writeResult_out ..) closed
    (forces.mono (fun _ w => w.2) fun _ means => means)

theorem CircuitCorrect.xor (ha : s.lane a = some x) (hb : s.lane b = some y) :
    CircuitCorrect (s.writeResult d (x ^^^ y) (fieldXor s.params.reuseExploded d a b s.field)) :=
  h.writeResult d (closed_xorRep h.allocated.record (h.allocated.rep_below a) (h.allocated.rep_below b) _)
    ((forces_xorRep h.prime h.room _ _ _ _ x y).mono (fun _ mean => ⟨mean a x ha, mean b y hb⟩) fun _ means => means)

theorem CircuitCorrect.add (ha : s.lane a = some x) (hb : s.lane b = some y) :
    CircuitCorrect (s.writeResult d (sum2 x y) (fieldAdd d a b s.field)) :=
  h.writeResult d (closed_trim h.allocated.record (w := .add _ _)
      ⟨(h.allocated.rep_below a).1, (h.allocated.rep_below b).1⟩ _)
    ((forces_addRep h.prime h.large _ _ _ x y).mono (fun _ mean => ⟨mean a x ha, mean b y hb⟩) fun _ means => means)

theorem CircuitCorrect.addm (ha : s.lane a = some x) (hb : s.lane b = some y) {mx : MsgIndex}
    (hc : s.lane (.m mx) = some z) :
    CircuitCorrect (s.writeResult d (sum3 x y z) (fieldAddm d a b mx s.field)) :=
  h.writeResult d (closed_trim h.allocated.record (w := .add (.add _ _) _)
      ⟨⟨(h.allocated.rep_below a).1, (h.allocated.rep_below b).1⟩, (h.allocated.rep_below (.m mx)).1⟩ _)
    ((forces_addmRep h.prime h.large _ _ _ _ x y z).mono
      (fun _ mean => ⟨mean a x ha, mean b y hb, mean (.m mx) z hc⟩) fun _ means => means)

theorem CircuitCorrect.rotr (ha : s.lane a = some x) (k : Nat) :
    CircuitCorrect (s.writeResult d (rotr x k) (fieldRotr s.params.reuseExploded d a k s.field)) :=
  h.writeResult d (closed_rotrRep h.allocated.record (h.allocated.rep_below a) _ k)
    ((forces_rotrRep h.prime h.room _ k _ _ x).mono (fun _ mean => mean a x ha) fun _ means => means)

end Lane

/-- An operand that is legal and not unwritten holds its value. -/
theorem lane_of_held {a : LaneAddr} (legal : LaneAddr.legal a = true) (held : ¬ AddrUnwritten s a) :
    s.lane (laneAt a) = some (s.word a) := by
  obtain ⟨x, e⟩ := Option.ne_none_iff_exists'.1 (mt (addrUnwritten_iff legal s).2 held)
  rw [e, word_of_some e]

theorem keepsCorrect_xor (rd rs1 rs2 : LaneAddr) : KeepsCorrect (.xor rd rs1 rs2) := by
  intro s h _ wf held
  obtain ⟨_, l1, l2⟩ : LaneAddr.legal rd = true ∧ LaneAddr.legal rs1 = true ∧ LaneAddr.legal rs2 = true := by
    simpa [Instr.wellFormed, Instr.illegal?, and_assoc] using wf
  obtain ⟨h1, h2⟩ := not_or.1 held
  exact h.xor (laneAt rd) (lane_of_held l1 h1) (lane_of_held l2 h2)

theorem keepsCorrect_add (rd rs1 rs2 : LaneAddr) : KeepsCorrect (.add rd rs1 rs2) := by
  intro s h _ wf held
  obtain ⟨_, l1, l2⟩ : LaneAddr.legal rd = true ∧ LaneAddr.legal rs1 = true ∧ LaneAddr.legal rs2 = true := by
    simpa [Instr.wellFormed, Instr.illegal?, and_assoc] using wf
  obtain ⟨h1, h2⟩ := not_or.1 held
  exact h.add (laneAt rd) (lane_of_held l1 h1) (lane_of_held l2 h2)

theorem keepsCorrect_addm (rd rs1 rs2 : LaneAddr) (mx : MsgIndex) : KeepsCorrect (.addm rd rs1 rs2 mx) := by
  intro s h _ wf held
  obtain ⟨_, l1, l2⟩ : LaneAddr.legal rd = true ∧ LaneAddr.legal rs1 = true ∧ LaneAddr.legal rs2 = true := by
    simpa [Instr.wellFormed, Instr.illegal?, and_assoc] using wf
  simp only [OperandUnwritten, not_or] at held
  obtain ⟨h1, h2, h3⟩ := held
  obtain ⟨z, e⟩ := Option.ne_none_iff_exists'.1 h3
  rw [completed, e]
  exact h.addm (laneAt rd) (lane_of_held l1 h1) (lane_of_held l2 h2) e

theorem keepsCorrect_rotr (rd rs1 : LaneAddr) (amt : RotAmount) : KeepsCorrect (.rotr rd rs1 amt) := by
  intro s h _ wf held
  obtain ⟨_, l1⟩ : LaneAddr.legal rd = true ∧ LaneAddr.legal rs1 = true := by
    simpa [Instr.wellFormed, Instr.illegal?] using wf
  exact h.rotr (laneAt rd) (lane_of_held l1 held) amt.val

/-! ### Sequences of commands, and G (R77) -/

/-- A sequence that ends unfaulted has completed each of its commands. -/
theorem CircuitCorrect.execAll : ∀ {is : List Instr} {s : State}, CircuitCorrect s → s.fault = 0 →
    (∀ i ∈ is, KeepsCorrect i) → execAll is s = .next t → t.fault = 0 → CircuitCorrect t
  | [], s, h, _, _, e, _ => by
    cases e
    exact h
  | i :: is, s, h, ok, keeps, e, done => by
    obtain ⟨keep, keeps⟩ := List.forall_mem_cons.1 keeps
    have raised (c : FaultCode) (eq : exec i s = raise c s) : CircuitCorrect t := by
      have faulted := s.enterFault_fault_ne_zero c
      simp only [Machine.execAll, eq, raise, if_neg faulted] at e
      rw [← Host.Outcome.next.inj e] at done
      exact absurd done faulted
    cases exec_cases i s with
    | illegal _ eq => exact raised _ eq
    | unwritten _ _ eq => exact raised _ eq
    | range _ _ _ eq => exact raised _ eq
    | completes wf held _ eq =>
      have ok' := (completed_fault i s).trans ok
      rw [execAll_cons eq ok'] at e
      exact (keep s h ok wf held).execAll ok' keeps e done

theorem CircuitCorrect.set_cp (h : CircuitCorrect s) (n : Nat) : CircuitCorrect { s with cp := n } :=
  h.congr ⟨rfl, rfl, rfl, fun _ => ⟨rfl, rfl, rfl, rfl⟩⟩ (fun k => by cases k <;> rfl) rfl rfl

theorem keepsCorrect_halfExpansion (a b c d : LaneAddr) (x : MsgIndex) (j k : RotAmount) :
    ∀ i ∈ halfExpansion a b c d x j k, KeepsCorrect i := by
  simp only [halfExpansion, List.forall_mem_cons, List.not_mem_nil, false_imp_iff, implies_true, and_true]
  exact ⟨keepsCorrect_addm a a b x, keepsCorrect_xor d d a, keepsCorrect_rotr d d j, keepsCorrect_add c c d,
    keepsCorrect_xor b b c, keepsCorrect_rotr b b k⟩

theorem keepsCorrect_g (a b c d : WorkIndex) (x y : MsgIndex) : KeepsCorrect (.g a b c d x y) := by
  intro s h ok _ held
  have done := (completed_fault (.g a b c d x y) s).trans ok
  have expanded := execAll_expand_gp ok held
  generalize completed (.g a b c d x y) s = t at done expanded ⊢
  refine (h.execAll ok (fun i mem => ?_) expanded done).set_cp t.cp
  rw [expand, mixExpansion_eq_halves] at mem
  exact (List.mem_append.1 mem).elim (keepsCorrect_halfExpansion _ _ _ _ x 32 24 i)
    (keepsCorrect_halfExpansion _ _ _ _ y 16 63 i)

/-! ### ROUND (R78) -/

section Rounds

variable {m w : Vector Word64 16} {f : FieldLevel} {n : Nat}

/-- One G call on a written working vector. -/
theorem completed_g_inRounds (hm : s.m = written m) (a b c d : WorkIndex) (x y : MsgIndex) :
    completed (.g a b c d x y) (s.inRounds w f n) =
      s.inRounds (mix w a b c d m[x] m[y]) (fieldMix s.params.reuseExploded a b c d x y f) (n + 1) := by
  have lanes (u : Vector Word64 16) (l : List WorkIndex) (agree : ∀ i, i ∉ l → u[i] = w[i]) :
      overwrite l u (written w) = written u := by
    refine ext_lanes fun i => ?_
    rw [overwrite_eq_patch, getElem_patch]
    split
    · rfl
    · rename_i mem
      simp only [Fin.getElem_fin, getElem_written]
      exact congrArg some (agree i mem).symm
  have hx (i : MsgIndex) : (s.m[i]).getD 0 = m[i] := by simp [hm]
  have mixed := lanes (mix w a b c d m[x] m[y]) [a, b, c, d] fun i mem =>
    getElem_mixCall_of_notMem (c := ((a, b, c, d), m[x], m[y])) mem w
  simp only [completed, State.setV, State.setField, State.advance, State.inRounds, mixLanes, wordsOf_written, hx,
    Nat.add_assoc, mixed]

/-- G calls one after the other. -/
theorem CircuitCorrect.roundCalls (hm : s.m = written m) (ok : s.fault = 0)
    (calls : List ((Fin 16 × Fin 16 × Fin 16 × Fin 16) × MsgIndex × MsgIndex)) : ∀ {w f n},
    CircuitCorrect (s.inRounds w f n) →
    CircuitCorrect (s.inRounds (calls.foldl (fun v c => mixCall v (c.1, m[c.2.1], m[c.2.2])) w)
      (calls.foldl (fieldCall s.params.reuseExploded) f) (n + calls.length)) := by
  induction calls with
  | nil => exact fun h => h
  | cons c calls ih =>
    intro w f n h
    have call := keepsCorrect_g c.1.1 c.1.2.1 c.1.2.2.1 c.1.2.2.2 c.2.1 c.2.2 _ h (State.inRounds_fault.trans ok) rfl
      (by simp [OperandUnwritten, hm])
    rw [completed_g_inRounds hm] at call
    rw [List.length_cons, ← Nat.add_assoc, Nat.add_right_comm]
    exact ih call

end Rounds

theorem roundWords_eq_foldl (p : Config.Params) (r : Nat) (m v : Vector Word64 16) :
    roundWords p r m v = (roundCalls (sigmaRow p r)).foldl (fun v c => mixCall v (c.1, m[c.2.1], m[c.2.2])) v := by
  simp only [roundCalls, List.foldl_cons, List.foldl_nil, mixCall, roundWords, columns, diagonals]

theorem keepsCorrect_round (r : RoundNumber) : KeepsCorrect (.round r) := by
  intro s h ok _ held
  obtain ⟨hv, hm⟩ := not_or.1 held
  have start : CircuitCorrect (s.inRounds (wordsOf s.v) s.field 0) := by
    rw [State.inRounds, ← eq_written_of_held hv]
    exact h
  have calls := start.roundCalls (eq_written_of_held hm) ok (roundCalls (sigmaRow s.params r.val))
  rw [← roundWords_eq_foldl, ← fieldRound_eq_foldl] at calls
  simpa only [completed, State.setV, State.setField, State.advance, State.inRounds] using calls.set_cp (s.cp + 1)

end Sys2Proof.Machine
end

section
/-! PROOFS. INIT, SEED, FEED and COMPRESS keep the circuit correct (42_compression.md R81 to R85). -/

namespace Sys2Proof.Machine

variable {s t : State}

/-- New representations of the lanes over the wires there are, without a circuit of their own. -/
theorem CircuitCorrect.relabel (h : CircuitCorrect s) (same : SameInputs s t) (out : t.out = s.out)
    (arena : t.field.arena = s.field.arena) (wires : t.field.out = s.field.out)
    (below : ∀ n, (t.field.rep n).Below s.field.arena.nextWire)
    (mean : ∀ a, LanesMean s a → LanesMean t a) : CircuitCorrect t := by
  obtain ⟨record, _, outBelow⟩ := allocated_iff.1 h.allocated
  refine h.of_forces same (allocated_iff.2 ?_) ?_
  · rw [arena, wires]
    exact ⟨record, below, outBelow⟩
  · rw [arena]
    refine Forces.refl fun a witness => ?_
    obtain ⟨lanes, bytes⟩ := corresponds_iff.1 (h.sound a witness)
    exact corresponds_iff.2 ⟨mean a lanes, bytes.congr same.params out wires⟩

theorem completed_sameInputs (i : Instr) (s : State) : SameInputs s (completed i s) :=
  (completed_sameHostSide i s).sameInputs

theorem keepsCorrect_init : KeepsCorrect .init := by
  intro s h _ _ _
  refine h.relabel (completed_sameInputs _ s) (by simp [completed]) (by simp [completed, fieldInit])
    (by simp [completed, fieldInit]) (fun n => ?_) fun a mean n x held => ?_
  · cases n with
    | h i => simpa [completed, fieldInit, FieldLevel.rep] using below_ofWord _ _
    | v i => exact h.allocated.v i
    | m i => exact h.allocated.m i
  · cases n with
    | h i =>
      simp only [State.lane, completed_init_h, Fin.getElem_fin, getElem_written] at held
      cases held
      simpa [completed, fieldInit, FieldLevel.rep] using means_ofWord h.room _ a
    | v i => exact mean (.v i) x held
    | m i => exact mean (.m i) x held

/-- SEED's copies of h and its constants (R83, R87). -/
theorem fieldSeed_rep_v (upper : Vector Word64 8) (f : FieldLevel) (i : Fin 16) : (fieldSeed upper f).rep (.v i) =
    if lt : i.val < 8 then f.rep (.h ⟨i.val, lt⟩) else LaneRep.ofWord upper[i.val - 8] := by
  simp [fieldSeed, FieldLevel.rep]

theorem lane_h_of_held (held : ¬ ∃ i : Fin 8, s.h[i] = none) (i : Fin 8) :
    s.lane (.h i) = some (wordsOf s.h)[i.val] := by
  rw [State.lane, Fin.getElem_fin, ← getElem_written, ← eq_written_of_held held]

theorem keepsCorrect_seed (f : Bool) : KeepsCorrect (.seed f) := by
  intro s h _ _ held
  obtain ⟨hh, _⟩ := not_or.1 held
  have copies := fieldSeed_rep_v (seedUpper s.params (s.t.getD 0) f) s.field
  have same := sameButV_fieldSeed s.field (seedUpper s.params (s.t.getD 0) f)
  have field : (completed (.seed f) s).field = fieldSeed (seedUpper s.params (s.t.getD 0) f) s.field := by
    simp [completed]
  refine h.relabel (completed_sameInputs _ s) (by simp [completed]) (by simp [completed, fieldSeed_arena])
    (by rw [field, same.out]) (fun n => ?_) fun a mean n x held => ?_
  · rw [field]
    cases n with
    | v i =>
      rw [copies]
      split
      · exact h.allocated.h _
      · exact below_ofWord _ _
    | h i =>
      rw [FieldLevel.rep, same.h]
      exact h.allocated.h i
    | m i =>
      rw [FieldLevel.rep, same.m]
      exact h.allocated.m i
  · rw [field]
    cases n with
    | v i =>
      simp only [State.lane, completed, State.advance_v, State.setField_v, State.setV_v, Fin.getElem_fin,
        getElem_written, seedWords, Vector.getElem_ofFn] at held
      rw [copies, ← Option.some.inj held]
      split
      next lt => exact mean (.h ⟨i.val, lt⟩) _ (lane_h_of_held hh _)
      next => exact means_ofWord h.room _ a
    | h i =>
      rw [FieldLevel.rep, same.h]
      exact mean (.h i) x (by simpa [completed, State.lane] using held)
    | m i =>
      rw [FieldLevel.rep, same.m]
      exact mean (.m i) x (by simpa [completed, State.lane] using held)

/-! ### FEED (R84) -/

/-- The state reached from `s` by `n` commands that write values to all of h. -/
def State.inFeed (s : State) (w : Vector Word64 8) (f : FieldLevel) (n : Nat) : State :=
  { s with h := written w, field := f, cp := s.cp + n }

/-- The feed-forward of one lane. -/
def feedLane (v : Vector Word64 16) (w : Vector Word64 8) (i : Fin 8) : Vector Word64 8 :=
  w.set i (w[i] ^^^ v[i.val] ^^^ v[i.val + 8])

theorem getElem_feedLane (v : Vector Word64 16) (w : Vector Word64 8) (i j : Fin 8) :
    (feedLane v w i)[j] = if i = j then w[j] ^^^ v[j.val] ^^^ v[j.val + 8] else w[j] := by
  simp only [feedLane, Fin.getElem_fin, Vector.getElem_set, Fin.ext_iff]
  split
  next eq => simp only [eq]
  next => rfl

/-- Each lane is fed forward once. -/
theorem getElem_foldl_feedLane (v : Vector Word64 16) {order : List (Fin 8)} (once : order.Nodup) (j : Fin 8) :
    ∀ w : Vector Word64 8, (order.foldl (feedLane v) w)[j] =
      if j ∈ order then w[j] ^^^ v[j.val] ^^^ v[j.val + 8] else w[j] := by
  induction order with
  | nil => simp
  | cons i order ih =>
    intro w
    obtain ⟨fresh, once⟩ := List.nodup_cons.1 once
    rw [List.foldl_cons, ih once, getElem_feedLane]
    by_cases eq : i = j
    · subst eq
      simp [fresh]
    · simp [eq, Ne.symm eq]

theorem mem_feedOrder (i : Fin 8) : i ∈ feedOrder := by
  revert i
  decide

theorem feedWords_eq_foldl (h : Vector Word64 8) (v : Vector Word64 16) :
    feedWords h v = feedOrder.foldl (feedLane v) h := by
  refine Vector.ext fun i lt => ?_
  have lane := getElem_foldl_feedLane v (order := feedOrder) (by decide) ⟨i, lt⟩ h
  rw [if_pos (mem_feedOrder _)] at lane
  rw [feedWords, Vector.getElem_ofFn]
  exact lane.symm

section Feed

variable {v : Vector Word64 16} {w : Vector Word64 8} {f : FieldLevel} {n : Nat}

theorem writeResult_inFeed (i : Fin 8) (x : Word64) (f' : FieldLevel) :
    (s.inFeed w f n).writeResult (.h i) x f' = s.inFeed (w.set i x) f' (n + 1) := by
  have set : (written w).set i (some x) = written (w.set i x) := by
    refine Vector.ext fun j lt => ?_
    simp only [getElem_written, Vector.getElem_set]
    split <;> rfl
  simp only [State.writeResult, State.setLane, State.setField, State.advance, State.inFeed, set, Nat.add_assoc]

/-- One XOR of FEED. -/
theorem CircuitCorrect.xor_inFeed (hv : s.v = written v) (h : CircuitCorrect (s.inFeed w f n)) (i : Fin 8) (j : Fin 16) :
    CircuitCorrect (s.inFeed (w.set i (w[i] ^^^ v[j]))
      (fieldXor s.params.reuseExploded (.h i) (.h i) (.v j) f) (n + 1)) := by
  rw [← writeResult_inFeed]
  exact h.xor (.h i) (a := .h i) (b := .v j) (by simp [State.inFeed, State.lane]) (by simp [State.inFeed, State.lane, hv])

theorem CircuitCorrect.feedLanes (hv : s.v = written v) (order : List (Fin 8)) : ∀ {w f n},
    CircuitCorrect (s.inFeed w f n) →
    CircuitCorrect (s.inFeed (order.foldl (feedLane v) w)
      (order.foldl (fieldFeedLane s.params.reuseExploded) f) (n + 2 * order.length)) := by
  induction order with
  | nil => exact fun h => h
  | cons i order ih =>
    intro w f n h
    have lane := (h.xor_inFeed hv i ⟨i.val, by omega⟩).xor_inFeed hv i ⟨i.val + 8, by omega⟩
    have step := ih (w := feedLane v w i) (f := fieldFeedLane s.params.reuseExploded f i) (n := n + 2)
    rw [List.length_cons, Nat.mul_succ, Nat.add_comm _ 2, ← Nat.add_assoc]
    refine step ?_
    simpa [feedLane, fieldFeedLane] using lane

end Feed

/-- The working vector given up. -/
theorem CircuitCorrect.forget (h : CircuitCorrect s) : CircuitCorrect
    { s with v := unwrittenLanes 16, field := { s.field with v := Vector.replicate 16 LaneRep.unwritten } } := by
  refine h.relabel ⟨rfl, rfl, rfl, fun _ => ⟨rfl, rfl, rfl, rfl⟩⟩ rfl rfl rfl (fun n => ?_) fun a mean n x held => ?_
  · cases n with
    | v i => simpa [FieldLevel.rep] using below_unwritten _
    | h i => exact h.allocated.h i
    | m i => exact h.allocated.m i
  · cases n with
    | v i => cases (getElem_unwrittenLanes i).symm.trans held
    | h i => exact mean (.h i) x held
    | m i => exact mean (.m i) x held

theorem keepsCorrect_feed : KeepsCorrect .feed := by
  intro s h _ _ held
  obtain ⟨hh, hv⟩ := not_or.1 held
  have start : CircuitCorrect (s.inFeed (wordsOf s.h) s.field 0) := by
    rw [State.inFeed, ← eq_written_of_held hh]
    exact h
  have lanes := start.feedLanes (eq_written_of_held hv) feedOrder
  rw [← feedWords_eq_foldl] at lanes
  have done := lanes.forget.set_cp (s.cp + 1)
  simpa only [completed, State.setV, State.setH, State.setField, State.advance, State.inFeed, fieldFeed] using done

/-! ### COMPRESS (R85) -/

theorem keepsCorrect_compress (f : Bool) : KeepsCorrect (.compress f) := by
  intro s h ok _ held
  have done := (completed_fault (.compress f) s).trans ok
  obtain ⟨_, _, _, hh, hm, ht⟩ := held_of_compress held
  have expanded := execAll_expand_compressx (f := f) ok hh hm ht
  generalize completed (.compress f) s = t at done expanded ⊢
  refine (h.execAll ok (fun i mem => ?_) expanded done).set_cp t.cp
  simp only [expand, allRoundCommands, List.cons_append, List.mem_cons, List.mem_append, List.mem_map,
    List.not_mem_nil, or_false] at mem
  rcases mem with rfl | ⟨r, _, rfl⟩ | rfl
  · exact keepsCorrect_seed f
  · exact keepsCorrect_round _
  · exact keepsCorrect_feed

end Sys2Proof.Machine
end

section
/-! PROOFS. LDCHUNK keeps the circuit correct (42_compression.md R82, R87): the bits of a lane are those of its eight
bytes. -/

namespace Sys2Proof.Machine

variable {p k x : Nat} {assign : Nat → Int} {bits xs ys : List Wire} {w : Wire} {ar : Arena} {s t : State}

/-! ### Bytes in a row (20_memory.md R33) -/

theorem leValue_drop : ∀ (bs : List Byte) (n : Nat), leValue (bs.drop n) = leValue bs / 256 ^ n
  | bs, 0 => by simp
  | [], n + 1 => by simp [leValue]
  | b :: bs, n + 1 => by
    have tail : (b.toNat + 256 * leValue bs) / 256 = leValue bs := by omega
    rw [List.drop_succ_cons, leValue_drop bs n, leValue, pow_succ', ← Nat.div_div_eq_div_mul, tail]

theorem leValue_take : ∀ (bs : List Byte) (n : Nat), leValue (bs.take n) = leValue bs % 256 ^ n
  | bs, 0 => by simp [leValue, Nat.mod_one]
  | [], n + 1 => by simp [leValue]
  | b :: bs, n + 1 => by
    have head : (b.toNat + 256 * leValue bs) % 256 = b.toNat := by omega
    have tail : (b.toNat + 256 * leValue bs) / 256 = leValue bs := by omega
    rw [List.take_succ_cons, leValue, leValue_take bs n, leValue, pow_succ', Nat.mod_mul, head, tail]

theorem toNat_le64 (bs : List Byte) : (le64 bs).toNat = leValue bs % 2 ^ 64 := by
  rw [le64, BitVec.toNat_ofNat]

/-- Bits of the low part, then bits of the high part. -/
theorem holdBits_append (low : HoldBits p assign xs (x % 2 ^ xs.length)) (high : HoldBits p assign ys (x / 2 ^ xs.length)) :
    HoldBits p assign (xs ++ ys) x := by
  intro i b e
  by_cases lt : i < xs.length
  · rw [List.getElem?_append_left lt] at e
    rw [low i b e, Nat.testBit_mod_two_pow, decide_eq_true lt, Bool.true_and]
  · rw [List.getElem?_append_right (Nat.not_lt.1 lt)] at e
    rw [high _ b e, Nat.testBit_div_two_pow, Nat.sub_add_cancel (Nat.not_lt.1 lt)]

/-! ### explode_8 of every byte (R87) -/

theorem closed_explodeBytes : ∀ {ws : List Wire} {ar : Arena}, ar.Closed → AllBelow ar.nextWire ws →
    (explodeBytes ws ar).2.Closed ∧ AllBelow (explodeBytes ws ar).2.nextWire (explodeBytes ws ar).1
  | [], _, closed, _ => ⟨closed, nofun⟩
  | w :: ws, ar, closed, below => by
    obtain ⟨head, tail⟩ := List.forall_mem_cons.1 below
    obtain ⟨closed, first⟩ := closed_explode closed head 8
    obtain ⟨closed, rest⟩ := closed_explodeBytes closed (AllBelow.mono tail (extends_explode 8 w ar).wires)
    exact ⟨closed, fun b mem => (List.mem_append.1 mem).elim
      (fun mem => (first.mono (extends_explodeBytes ws _).wires) b mem) (rest b)⟩

theorem length_explodeBytes : ∀ (ws : List Wire) (ar : Arena), (explodeBytes ws ar).1.length = 8 * ws.length
  | [], _ => rfl
  | w :: ws, ar => by
    rw [explodeBytes, List.length_append, explode_bits, length_newWires, length_explodeBytes ws, List.length_cons,
      Nat.mul_succ, Nat.add_comm]

/-- Wires that carry bytes, exploded, give the bits of the number the bytes make. -/
theorem forces_explodeBytes (prime : p.Prime) (big : 2 ^ 8 ≤ p) (wire : Nat → Wire) (byte : Nat → Byte) :
    ∀ (l : List Nat) (ar : Arena),
      Forces p (fun a => ∀ n ∈ l, (wire n).value p a = (byte n).toNat) ar (explodeBytes (l.map wire) ar).2
        fun a => HoldBits p a (explodeBytes (l.map wire) ar).1 (leValue (l.map byte))
  | [], ar => Forces.refl fun _ _ => holdBits_nil
  | n :: l, ar => by
    have first := (forces_explode (w := wire n) (ar := ar) prime big (byte n).isLt).frame
      (other := fun a => ∀ n ∈ l, (wire n).value p a = (byte n).toNat)
    have rest := (forces_explodeBytes prime big wire byte l (explode 8 (wire n) ar).2).frame
      (other := fun a => HoldBits p a (explode 8 (wire n) ar).1 (byte n).toNat)
    refine (first.mono (fun a h => List.forall_mem_cons.1 h) fun _ h => h.symm).trans
      (rest.mono (fun _ h => h) fun a h => ?_)
    have head : (byte n).toNat = leValue ((n :: l).map byte) % 2 ^ (explode 8 (wire n) ar).1.length := by
      rw [explode_bits, length_newWires, List.map_cons, leValue]
      omega
    have tail : leValue (l.map byte) = leValue ((n :: l).map byte) / 2 ^ (explode 8 (wire n) ar).1.length := by
      rw [explode_bits, length_newWires, List.map_cons, leValue]
      omega
    exact holdBits_append (head ▸ h.2) (tail ▸ h.1)

/-! ### The byte wires of Buf (R92) -/

section Buffer

variable (h : CircuitCorrect s) (built : s.built = true)
include h built

theorem CircuitCorrect.bufWire_below (n : Nat) : (bufWire s n).Below s.field.arena.nextWire := by
  obtain ⟨fits, room⟩ := h.inputWires built
  rw [bufWire]
  split
  next inside =>
    simp only [State.bufLen, Config.blockBytes] at inside
    show s.inputBase + (n - 128) < _
    omega
  next => trivial

/-- Under a witness every byte of Buf is the value of its wire. -/
theorem CircuitCorrect.bufWire_value (witness : Witness s assign) (n : Nat) :
    (bufWire s n).value s.params.fieldPrime assign = (s.bufByte n).toNat := by
  rw [bufWire]
  split
  next inside =>
    simp only [State.bufLen, Config.blockBytes] at inside
    have input := witness.inputs built (n - 128) (by omega)
    rwa [Nat.add_sub_cancel' inside.1] at input
  next =>
    have small : (s.bufByte n).toNat < s.params.fieldPrime := (s.bufByte n).isLt.trans_le (by have := h.large; omega)
    exact Int.emod_eq_of_lt (Int.natCast_nonneg _) (Int.ofNat_lt.2 small)

end Buffer

/-! ### LDCHUNK -/

/-- The addresses of chunk k. -/
def chunkAddresses (k : Nat) : List Nat := (List.range 128).map fun j => 128 * k + j

theorem chunkWires_eq_map (s : State) (k : Nat) : chunkWires s k = (chunkAddresses k).map (bufWire s) := by
  rw [chunkWires, chunkAddresses, List.map_map]
  rfl

/-- The bytes of lane i are eight of the chunk's. -/
theorem memRead_chunk (s : State) (k : Nat) (i : Fin 16) :
    s.memRead (128 * k + 8 * i.val) 8 = (((chunkAddresses k).map s.bufByte).drop (8 * i.val)).take 8 := by
  refine List.ext_getElem? fun j => ?_
  simp only [State.memRead, chunkAddresses, List.map_map, List.getElem?_map, List.getElem?_take, List.getElem?_drop]
  by_cases lt : j < 8
  · rw [if_pos lt, List.getElem?_range lt, List.getElem?_range (by omega)]
    simp [Nat.add_assoc]
  · rw [if_neg lt, List.getElem?_eq_none (by simpa using lt)]
    rfl

/-- The bits of the chunk's number from 64·i on are those of lane i. -/
theorem HoldBits.chunkLane (h : HoldBits p assign bits (leValue ((chunkAddresses k).map s.bufByte))) (i : Fin 16) :
    HoldBits p assign ((bits.drop (64 * i.val)).take 64) (chunkWords s k)[i.val].toNat := by
  have lane : (chunkWords s k)[i.val].toNat = leValue ((chunkAddresses k).map s.bufByte) / 2 ^ (64 * i.val) % 2 ^ 64 := by
    simp only [chunkWords, Vector.getElem_ofFn, Config.blockBytes]
    rw [toNat_le64, memRead_chunk, leValue_take, leValue_drop, show (256 : Nat) = 2 ^ 8 from rfl, ← pow_mul, ← pow_mul,
      ← Nat.mul_assoc, Nat.mod_mod]
  rw [lane]
  exact (h.drop _).take 64

section Load

variable (wires : List Wire) (f : FieldLevel)

theorem fieldLoad_rep_m (i : Fin 16) : (fieldLoad wires f).rep (.m i) =
    LaneRep.ofBits (((explodeBytes wires f.arena).1.drop (64 * i.val)).take 64) := by
  simp [fieldLoad, FieldLevel.rep]

theorem fieldLoad_rep_v (i : Fin 16) : (fieldLoad wires f).rep (.v i) = f.rep (.v i) := by
  simp only [fieldLoad, FieldLevel.rep]

theorem fieldLoad_rep_h (i : Fin 8) : (fieldLoad wires f).rep (.h i) = f.rep (.h i) := by
  simp only [fieldLoad, FieldLevel.rep]

theorem fieldLoad_out : (fieldLoad wires f).out = f.out := by simp only [fieldLoad]

theorem fieldLoad_arena : (fieldLoad wires f).arena = (explodeBytes wires f.arena).2 := by simp only [fieldLoad]

end Load

theorem completed_ldchunk_field (k : ChunkIndex) (s : State) :
    (completed (.ldchunk k) s).field = fieldLoad (chunkWires s k.val) s.field := by
  simp only [completed, State.advance_field, State.setField_field]

/-- The exploded chunk: the record stays closed, and the bits are allocated. -/
theorem CircuitCorrect.closed_chunk (h : CircuitCorrect s) (built : s.built = true) (k : Nat) :
    (explodeBytes (chunkWires s k) s.field.arena).2.Closed ∧
      AllBelow (explodeBytes (chunkWires s k) s.field.arena).2.nextWire
        (explodeBytes (chunkWires s k) s.field.arena).1 := by
  refine closed_explodeBytes h.allocated.record ?_
  rw [chunkWires_eq_map]
  intro w mem
  obtain ⟨n, _, rfl⟩ := List.mem_map.1 mem
  exact h.bufWire_below built n

theorem CircuitCorrect.allocated_chunk (h : CircuitCorrect s) (built : s.built = true) (k : Nat) :
    (fieldLoad (chunkWires s k) s.field).Allocated := by
  obtain ⟨_, rep, out⟩ := allocated_iff.1 h.allocated
  obtain ⟨closed, bits⟩ := h.closed_chunk built k
  have wires := (extends_explodeBytes (chunkWires s k) s.field.arena).wires
  refine allocated_iff.2 ?_
  rw [fieldLoad_arena, fieldLoad_out]
  refine ⟨closed, fun n => ?_, out.mono wires⟩
  cases n with
  | m i =>
    rw [fieldLoad_rep_m]
    exact below_ofBits fun b mem => bits b (List.mem_of_mem_drop (List.mem_of_mem_take mem))
  | v i =>
    rw [fieldLoad_rep_v]
    exact (rep (.v i)).mono wires
  | h i =>
    rw [fieldLoad_rep_h]
    exact (rep (.h i)).mono wires

theorem length_chunkBits (s : State) (k : Nat) (i : Fin 16) (ar : Arena) :
    (((explodeBytes (chunkWires s k) ar).1.drop (64 * i.val)).take 64).length = 64 := by
  rw [List.length_take, List.length_drop, length_explodeBytes, chunkWires_eq_map, List.length_map, chunkAddresses,
    List.length_map, List.length_range]
  omega

/-- LDCHUNK keeps the circuit of a built gadget correct. -/
theorem CircuitCorrect.ldchunk (h : CircuitCorrect s) (built : s.built = true) (k : ChunkIndex) :
    CircuitCorrect (completed (.ldchunk k) s) := by
  have same := completed_sameInputs (.ldchunk k) s
  have field := completed_ldchunk_field k s
  refine h.of_forces same (field ▸ h.allocated_chunk built k.val) ?_
  have exploded := (forces_explodeBytes h.prime (by have := h.large; omega) (bufWire s) s.bufByte
    (chunkAddresses k.val) s.field.arena).frame (other := Witness s)
  rw [← chunkWires_eq_map, ← fieldLoad_arena, ← field] at exploded
  refine exploded.mono (fun a witness => ⟨fun n _ => h.bufWire_value built witness n, witness⟩) ?_
  rintro a ⟨held, witness⟩
  obtain ⟨mean, bytes⟩ := corresponds_iff.1 (h.sound a witness)
  refine corresponds_iff.2 ⟨fun n x e => ?_, bytes.congr same.params (completed_out (by simp) s)
    (completed_field_out (by simp) s)⟩
  rw [same.params, field]
  cases n with
  | m i =>
    simp only [completed, State.lane, State.advance_m, State.setField_m, State.setT_m, State.setM_m, Fin.getElem_fin,
      getElem_written, Option.some.injEq] at e
    rw [fieldLoad_rep_m, ← e]
    exact (held.chunkLane i).means_ofBits (length_chunkBits s k.val i _) h.room
  | v i =>
    rw [fieldLoad_rep_v]
    exact mean (.v i) x (by simpa [completed, State.lane] using e)
  | h i =>
    rw [fieldLoad_rep_h]
    exact mean (.h i) x (by simpa [completed, State.lane] using e)

end Sys2Proof.Machine
end

section
/-! PROOFS. STDIG keeps the circuit correct (42_compression.md R86, R87), and so does every step (00_scope.md R9). -/

namespace Sys2Proof.Machine

variable {p n : Nat} {assign : Nat → Int} {bits ws ws' : List Wire} {bs bs' : List Byte} {ar ar₁ ar₂ : Arena}
  {pre post post' : (Nat → Int) → Prop} {s t : State}

/-- Two circuits one after the other, each forcing its result from the same premise. -/
theorem Forces.and (h₁ : Forces p pre ar ar₁ post) (h₂ : Forces p pre ar₁ ar₂ post') :
    Forces p pre ar ar₂ fun a => post a ∧ post' a :=
  ((h₁.frame (other := pre)).mono (fun _ h => ⟨h, h⟩) fun _ h => h.symm).trans
    ((h₂.frame (other := post)).mono (fun _ h => h) fun _ h => h.symm)

/-! ### Wires that carry bytes -/

/-- The wires carry the bytes, one each. -/
def HoldBytes (p : Nat) (assign : Nat → Int) (ws : List Wire) (bs : List Byte) : Prop :=
  List.Forall₂ (fun w b => w.value p assign = b.toNat) ws bs

theorem HoldBytes.append (h : HoldBytes p assign ws bs) (h' : HoldBytes p assign ws' bs') :
    HoldBytes p assign (ws ++ ws') (bs ++ bs') :=
  List.rel_append h h'

theorem packBytes_eq_map (n : Nat) (bits : List Wire) :
    packBytes n bits = (List.range n).map fun j => pack ((bits.drop (8 * j)).take 8) := by
  induction n generalizing bits with
  | zero => rfl
  | succ n ih =>
    rw [packBytes, ih, List.range_succ_eq_map, List.map_cons, List.map_map]
    simp [Function.comp_def, Nat.mul_succ, Nat.add_comm]

/-- Eight bits packed are the byte at their place. -/
theorem HoldBits.value_packByte {x : Word64} (h : HoldBits p assign bits x.toNat) (width : bits.length = 64)
    (big : 2 ^ 64 ≤ p) {j : Nat} (lt : j < 8) :
    (pack ((bits.drop (8 * j)).take 8)).value p assign = (x.extractLsb' (8 * j) 8).toNat := by
  have length : ((bits.drop (8 * j)).take 8).length = 8 := by
    rw [List.length_take, List.length_drop]
    omega
  have packed := ((h.drop (8 * j)).take 8).value_pack (by omega) (by rw [length]; omega)
  rwa [length, Nat.mod_mod, ← Nat.shiftRight_eq_div_pow, ← BitVec.extractLsb'_toNat] at packed

theorem HoldBits.packBytes {x : Word64} (h : HoldBits p assign bits x.toNat) (width : bits.length = 64)
    (big : 2 ^ 64 ≤ p) : HoldBytes p assign (packBytes 8 bits) (laneBytes x) := by
  rw [packBytes_eq_map, laneBytes, HoldBytes, List.forall₂_map_left_iff, List.forall₂_map_right_iff, List.forall₂_same]
  exact fun j mem => h.value_packByte width big (List.mem_range.1 mem)

/-! ### The stored lanes (R87) -/

theorem forces_storeLane (prime : p.Prime) (big : 2 ^ 64 ≤ p) (reuse : Bool) (r : LaneRep) (ar : Arena) (x : Word64) :
    Forces p (fun a => r.Means p a x) ar (storeLane reuse r ar).2 fun a =>
      HoldBytes p a (storeLane reuse r ar).1 (laneBytes x) :=
  (forces_bitsOf prime big reuse r ar x).mono (fun _ h => h) fun _ ⟨width, h⟩ => h.packBytes width big

theorem closed_storeLane {r : LaneRep} (closed : ar.Closed) (below : r.Below ar.nextWire) (reuse : Bool) :
    (storeLane reuse r ar).2.Closed ∧ AllBelow (storeLane reuse r ar).2.nextWire (storeLane reuse r ar).1 := by
  obtain ⟨closed, bits⟩ := closed_bitsOf closed below reuse
  refine ⟨closed, ?_⟩
  rw [storeLane, packBytes_eq_map]
  intro w mem
  obtain ⟨j, _, rfl⟩ := List.mem_map.1 mem
  exact below_pack fun b mem => bits b (List.mem_of_mem_drop (List.mem_of_mem_take mem))

/-- The lanes stored one after the other. -/
def storeLanes (reuse : Bool) : List LaneRep → Arena → List Wire × Arena
  | [], ar => ([], ar)
  | r :: rs, ar => ((storeLane reuse r ar).1 ++ (storeLanes reuse rs (storeLane reuse r ar).2).1,
      (storeLanes reuse rs (storeLane reuse r ar).2).2)

theorem fieldStore_eq (reuse : Bool) (f : FieldLevel) : fieldStore reuse f = { f with
    out := (storeLanes reuse [f.h[0], f.h[1], f.h[2], f.h[3]] f.arena).1
    arena := (storeLanes reuse [f.h[0], f.h[1], f.h[2], f.h[3]] f.arena).2 } := by
  simp only [fieldStore, storeLanes, List.append_nil, List.append_assoc]

theorem extends_storeLanes (reuse : Bool) : ∀ (rs : List LaneRep) (ar : Arena), Extends ar (storeLanes reuse rs ar).2
  | [], ar => .refl ar
  | r :: rs, ar => (extends_storeLane reuse r ar).trans (extends_storeLanes reuse rs _)

theorem closed_storeLanes (reuse : Bool) : ∀ {rs : List LaneRep} {ar : Arena}, ar.Closed →
    (∀ r ∈ rs, r.Below ar.nextWire) →
    (storeLanes reuse rs ar).2.Closed ∧ AllBelow (storeLanes reuse rs ar).2.nextWire (storeLanes reuse rs ar).1
  | [], _, closed, _ => ⟨closed, nofun⟩
  | r :: rs, ar, closed, below => by
    obtain ⟨head, tail⟩ := List.forall_mem_cons.1 below
    obtain ⟨closed, first⟩ := closed_storeLane closed head reuse
    obtain ⟨closed, rest⟩ := closed_storeLanes reuse closed fun r mem => (tail r mem).mono (extends_storeLane ..).wires
    exact ⟨closed, fun b mem => (List.mem_append.1 mem).elim ((first.mono (extends_storeLanes ..).wires) b) (rest b)⟩

/-- Lanes that mean their words, stored, give the bytes of the words. -/
theorem forces_storeLanes (prime : p.Prime) (big : 2 ^ 64 ≤ p) (reuse : Bool) :
    ∀ {rs : List LaneRep} {xs : List Word64} (ar : Arena),
      (∀ a, pre a → List.Forall₂ (fun r x => r.Means p a x) rs xs) → rs.length = xs.length →
      Forces p pre ar (storeLanes reuse rs ar).2 fun a =>
        HoldBytes p a (storeLanes reuse rs ar).1 (xs.flatMap laneBytes)
  | [], [], ar, _, _ => Forces.refl fun _ _ => .nil
  | r :: rs, x :: xs, ar, mean, length => by
    have first := (forces_storeLane prime big reuse r ar x).mono
      (fun a h => (List.forall₂_cons.1 (mean a h)).1) fun _ h => h
    have rest := forces_storeLanes prime big reuse (storeLane reuse r ar).2
      (fun a h => (List.forall₂_cons.1 (mean a h)).2) (Nat.succ.inj length)
    exact (first.and rest).mono (fun _ h => h) fun _ h => h.1.append h.2

theorem digestBytes_eq_flatMap (h : Vector Word64 8) : digestBytes h = [h[0], h[1], h[2], h[3]].flatMap laneBytes := by
  simp [digestBytes]

/-! ### STDIG -/

/-- After thirty-two bytes are written to an Out that is empty or whole, they are all it holds. -/
theorem getElem?_of_readByte_writeBytes {out : Memory} {a : Nat} {b : Byte} (wf : Memory.wf outUnlisted out)
    (whole : out = [] ∨ out.map (fun c => c.1) = List.range 32) (length : bs.length = 32)
    (h : readByte outUnlisted (writeBytes outUnlisted out 0 bs) a = some b) : bs[a]? = some b := by
  obtain ⟨c, mem, rfl⟩ := exists_mem_of_readByte h
  have lt : c.1 < bs.length := by
    have address := List.mem_map_of_mem (f := fun c : Host.Cell => c.1) mem
    rw [addresses_writeBytes_out wf whole length, List.mem_range] at address
    rwa [length]
  rw [readByte_writeBytes bs 0 c.1 wf, dif_pos ⟨Nat.zero_le _, lt⟩] at h
  rw [List.getElem?_eq_getElem lt]
  exact h

theorem HoldBytes.getElem? (h : HoldBytes p assign ws bs) {a : Nat} {b : Byte} (e : bs[a]? = some b) :
    ∃ w, ws[a]? = some w ∧ w.value p assign = b.toNat := by
  obtain ⟨lt, rfl⟩ := List.getElem?_eq_some_iff.1 e
  have lt' : a < ws.length := by rwa [h.length_eq]
  exact ⟨ws[a], List.getElem?_eq_getElem lt', h.get lt' lt⟩

theorem CircuitCorrect.allocated_store (h : CircuitCorrect s) (reuse : Bool) : (fieldStore reuse s.field).Allocated := by
  obtain ⟨record, rep, _⟩ := allocated_iff.1 h.allocated
  have lanes : ∀ r ∈ [s.field.h[0], s.field.h[1], s.field.h[2], s.field.h[3]], r.Below s.field.arena.nextWire := by
    simp only [List.forall_mem_cons, List.not_mem_nil, false_imp_iff, implies_true, and_true]
    exact ⟨rep (.h 0), rep (.h 1), rep (.h 2), rep (.h 3)⟩
  rw [fieldStore_eq]
  obtain ⟨closed, wires⟩ := closed_storeLanes reuse record lanes
  have le := (extends_storeLanes reuse [s.field.h[0], s.field.h[1], s.field.h[2], s.field.h[3]] s.field.arena).wires
  exact ⟨closed, fun i => (rep (.v i)).mono le, fun i => (rep (.h i)).mono le, fun i => (rep (.m i)).mono le, wires⟩

theorem fieldStore_rep (reuse : Bool) (f : FieldLevel) (n : LaneName) : (fieldStore reuse f).rep n = f.rep n := by
  cases n <;> simp only [fieldStore, FieldLevel.rep]

theorem completed_stdig_field (s : State) :
    (completed .stdig s).field = fieldStore s.params.reuseExploded s.field := by
  simp only [completed, State.advance_field, State.setField_field]

theorem lane_completed_stdig (s : State) (n : LaneName) : (completed .stdig s).lane n = s.lane n := by
  cases n <;> simp [completed, State.lane]

/-- The four lanes STDIG reads mean their words. -/
theorem LanesMean.digest (mean : LanesMean s assign) (held : ¬ OperandUnwritten s .stdig) :
    List.Forall₂ (fun r x => LaneRep.Means s.params.fieldPrime assign r x)
      [s.field.h[0], s.field.h[1], s.field.h[2], s.field.h[3]]
      [(wordsOf s.h)[0], (wordsOf s.h)[1], (wordsOf s.h)[2], (wordsOf s.h)[3]] := by
  have lane (i : Fin 8) (some : s.h[i] ≠ none) : (s.field.h[i]).Means s.params.fieldPrime assign (wordsOf s.h)[i] := by
    obtain ⟨x, e⟩ := Option.ne_none_iff_exists'.1 some
    rw [getElem_wordsOf_of_some e]
    exact mean (.h i) x e
  simp only [OperandUnwritten, not_or] at held
  obtain ⟨h0, h1, h2, h3⟩ := held
  exact .cons (lane 0 h0) (.cons (lane 1 h1) (.cons (lane 2 h2) (.cons (lane 3 h3) .nil)))

/-- STDIG keeps the circuit correct where Out is empty or whole. -/
theorem CircuitCorrect.stdig (h : CircuitCorrect s) (memories : MemoriesCanonical s)
    (held : ¬ OperandUnwritten s .stdig) : CircuitCorrect (completed .stdig s) := by
  have same := completed_sameInputs .stdig s
  have field := completed_stdig_field s
  refine h.of_forces same (field ▸ h.allocated_store _) ?_
  have stored := (forces_storeLanes h.prime h.room s.params.reuseExploded (pre := LanesMean s) s.field.arena
    (fun a mean => mean.digest held) rfl).frame (other := Corresponds s)
  rw [← digestBytes_eq_flatMap] at stored
  rw [field, fieldStore_eq]
  refine stored.mono (fun a witness => ⟨(corresponds_iff.1 (h.sound a witness)).1, h.sound a witness⟩) ?_
  rintro a ⟨bytes, corresponds⟩
  refine corresponds_iff.2 ⟨fun n x e => ?_, fun n b e => ?_⟩
  · rw [same.params, field, fieldStore_rep]
    exact (corresponds_iff.1 corresponds).1 n x (lane_completed_stdig s n ▸ e)
  · rw [same.params, field, fieldStore_eq]
    rw [completed_stdig_out] at e
    exact bytes.getElem? (getElem?_of_readByte_writeBytes memories.outForm memories.outWhole (length_digestBytes _) e)

/-! ### Every step -/

/-- A command that completes keeps the circuit correct. -/
theorem CircuitCorrect.completed {i : Instr} (h : CircuitCorrect s) (memories : MemoriesCanonical s)
    (built : s.built = true) (ok : s.fault = 0) (wf : i.wellFormed = true) (held : ¬ OperandUnwritten s i) :
    CircuitCorrect (completed i s) := by
  cases i with
  | xor rd rs1 rs2 => exact keepsCorrect_xor rd rs1 rs2 s h ok wf held
  | add rd rs1 rs2 => exact keepsCorrect_add rd rs1 rs2 s h ok wf held
  | addm rd rs1 rs2 mx => exact keepsCorrect_addm rd rs1 rs2 mx s h ok wf held
  | rotr rd rs1 amt => exact keepsCorrect_rotr rd rs1 amt s h ok wf held
  | g a b c d x y => exact keepsCorrect_g a b c d x y s h ok wf held
  | round r => exact keepsCorrect_round r s h ok wf held
  | init => exact keepsCorrect_init s h ok wf held
  | ldchunk k => exact h.ldchunk built k
  | seed f => exact keepsCorrect_seed f s h ok wf held
  | feed => exact keepsCorrect_feed s h ok wf held
  | compress f => exact keepsCorrect_compress f s h ok wf held
  | stdig => exact h.stdig memories held

theorem CircuitCorrect.enterFault (h : CircuitCorrect s) (c : FaultCode) : CircuitCorrect (s.enterFault c) :=
  h.congr (enterFault_sameHostSide s c).sameInputs (fun n => s.lane_enterFault n c) rfl rfl

/-- Settles O50: a step that raises writes FAULT alone; one that completes a command appends a circuit that forces the
command's result. -/
theorem stepKeepsCircuitCorrect : Obligations.StepKeepsCircuitCorrect := by
  intro s t memories h step
  obtain ⟨_, ok, built, _⟩ := fetched_of_step step
  rcases step_next step with ⟨c, _, rfl⟩ | ⟨i, wf, held, _, rfl⟩
  · exact h.enterFault c
  · exact (h.completed memories built ok wf held).congr ⟨rfl, rfl, rfl, fun _ => ⟨rfl, rfl, rfl, rfl⟩⟩
      (fun n => by cases n <;> rfl) rfl rfl

end Sys2Proof.Machine
end

section
/-! PROOFS. Reset, construction, the port and the other host moves keep the circuit correct (00_scope.md R9,
43_host_driver.md R90 to R99). -/

namespace Sys2Proof.Machine

variable {s t : State} {k : Nat}

/-! ### Reset (R27) -/

theorem allocated_initial : FieldLevel.initial.Allocated := by
  refine allocated_iff.2 ⟨nofun, fun n => ?_, nofun⟩
  cases n <;> simpa [FieldLevel.initial, FieldLevel.rep] using below_unwritten _

/-- Before anything is written or built there is nothing to agree on. -/
theorem circuitCorrect_of_initial (prime : s.params.fieldPrime.Prime) (large : 2 ^ 66 < s.params.fieldPrime)
    (field : s.field = FieldLevel.initial) (lanes : ∀ n, s.lane n = none) (out : s.out = []) (ports : s.portInputs = [])
    (unbuilt : s.built = false) : CircuitCorrect s where
  prime := prime
  large := large
  allocated := field ▸ allocated_initial
  inputWires built := nomatch unbuilt.symm.trans built
  portWires := by
    rw [ports]
    nofun
  sound a _ := corresponds_iff.2 ⟨fun n x held => (nomatch (lanes n).symm.trans held), fun n b held => by
    rw [out] at held
    cases held⟩
  complete := by
    refine ⟨fun _ => 0, ?_, fun built => (nomatch unbuilt.symm.trans built), ?_⟩
    · rw [field]
      nofun
    · rw [ports]
      nofun
  unique := by
    rw [field]
    nofun

/-- Settles O52: at reset no lane and no byte holds a value, and no wire is allocated. -/
theorem resetCircuitCorrect : Obligations.ResetCircuitCorrect := fun _ prime large =>
  circuitCorrect_of_initial prime large rfl lane_reset rfl rfl rfl

theorem CircuitCorrect.hostReset (h : CircuitCorrect s) : CircuitCorrect s.hostReset :=
  circuitCorrect_of_initial h.prime h.large rfl lane_reset rfl rfl rfl

/-! ### New wires without constraints -/

/-- The field level with `k` more wires allocated. -/
def FieldLevel.allocate (f : FieldLevel) (k : Nat) : FieldLevel :=
  { f with arena := { f.arena with nextWire := f.arena.nextWire + k } }

theorem FieldLevel.Allocated.allocate {f : FieldLevel} (h : f.Allocated) (k : Nat) : (f.allocate k).Allocated := by
  have le := Nat.le_add_right f.arena.nextWire k
  exact ⟨fun c mem => (h.record c mem).mono le, fun i => (h.v i).mono le, fun i => (h.h i).mono le,
    fun i => (h.m i).mono le, fun w mem => (h.out w mem).mono le⟩

/-- Lanes, representations and Out are as before: what corresponded does so still. -/
theorem Corresponds.congr {a : Nat → Int} (h : Corresponds s a) (params : t.params = s.params)
    (lanes : ∀ n, t.lane n = s.lane n) (reps : ∀ n, t.field.rep n = s.field.rep n) (out : t.out = s.out)
    (wires : t.field.out = s.field.out) : Corresponds t a := by
  obtain ⟨mean, bytes⟩ := corresponds_iff.1 h
  refine corresponds_iff.2 ⟨fun n x held => ?_, bytes.congr params out wires⟩
  rw [params, reps]
  exact mean n x (lanes n ▸ held)

theorem emod_of_lt {p n : Nat} (lt : n < p) : (n : Int) % (p : Int) = n :=
  Int.emod_eq_of_lt (Int.natCast_nonneg _) (Int.ofNat_lt.2 lt)

/-! ### Construction (R92, R94) -/

/-- The gadget's input wires carry the message. -/
theorem CircuitCorrect.buildGadget (h : CircuitCorrect s) (unbuilt : s.built = false) {inputs : List Byte}
    (nIn : s.nIn = inputs.length) (len : s.len ≤ inputs.length) : CircuitCorrect (s.buildGadget inputs) := by
  have none (P : Prop) (built : s.built = true) : P := nomatch unbuilt.symm.trans built
  have byte (b : Byte) : (b.toNat : Int) % (s.params.fieldPrime : Int) = b.toNat :=
    emod_of_lt (b.isLt.trans_le (by have := h.large; omega))
  have old (a : Nat → Int) (w : Witness (s.buildGadget inputs) a) : Witness s a :=
    ⟨w.satisfies, none _, w.portInputs⟩
  refine h.grow rfl (fun i => ((s.buildGadget inputs).bufByte (128 + (i - s.field.arena.nextWire))).toNat) old
    (fun a _ i le lt notInput => ?_) (fun a w solved => ?_) (fun n input => none _ input.1) (fun a w => ?_)
    (h.allocated.allocate inputs.length) (fun _ => ?_) fun c mem => ?_
  · exact absurd ⟨rfl, le, by rw [State.buildGadget, nIn]; exact lt⟩ notInput
  · refine ⟨w.satisfies, fun _ i _ => ?_, w.portInputs⟩
    have value := solved (s.field.arena.nextWire + i) (Nat.le_add_right _ i)
    rw [Nat.add_sub_cancel_left] at value
    exact (congrArg (· % (s.params.fieldPrime : Int)) value).trans (byte _)
  · exact (h.sound a (old a w)).congr rfl (fun n => by cases n <;> rfl) (fun n => by cases n <;> rfl) rfl rfl
  · exact ⟨nIn ▸ len, by rw [State.buildGadget, nIn]⟩
  · exact (h.portWires c mem).trans_le (Nat.le_add_right _ _)

/-- The configuration registers matter to a built gadget alone. -/
theorem SameInputs.of_unbuilt (unbuilt : s.built = false) (params : t.params = s.params) (built : t.built = false)
    (ports : t.portInputs = s.portInputs) : SameInputs s t :=
  ⟨params, built.trans unbuilt.symm, ports, fun built => (nomatch unbuilt.symm.trans built)⟩

theorem CircuitCorrect.construct (h : CircuitCorrect s) (unbuilt : s.built = false) (a : ConstructArgs) :
    CircuitCorrect (s.construct a) := by
  have configured : CircuitCorrect (s.configure a) :=
    h.congr (.of_unbuilt unbuilt rfl unbuilt rfl) (fun n => by cases n <;> rfl) rfl rfl
  rcases construct_cases s a with ⟨_, e⟩ | ⟨_, _, e⟩ | ⟨length, config, e⟩ <;> rw [e]
  · exact configured.enterFault .configLength
  · exact h.congr (.of_unbuilt unbuilt rfl unbuilt rfl) (fun n => by cases n <;> rfl) rfl rfl
  · exact configured.buildGadget unbuilt rfl (len_le_inputs length config)

/-! ### The port (R99) -/

theorem CircuitCorrect.portConstant (h : CircuitCorrect s) (n : LaneName) (x : Word64) :
    CircuitCorrect (s.portConstant n x) := by
  refine h.put (d := n) (x := x) (r := (LaneRep.ofWord x, s.field.arena))
    ⟨by simp [State.portConstant], by simp [State.portConstant], by simp [State.portConstant],
      fun _ => by simp [State.portConstant]⟩ (by simp [State.portConstant, fieldConst]) (by simp [State.portConstant])
    (fun n' ne => by simp [State.portConstant, State.lane_setLane_ne _ ne]) (by simp [State.portConstant])
    ⟨h.allocated.record, below_ofWord _ x⟩ ?_
  exact Forces.refl fun a _ => means_ofWord h.room x a

/-- A new input wire of the port, before it is made a lane. -/
def State.portWire (s : State) (x : Word64) : State :=
  { s with portInputs := s.portInputs ++ [(s.field.arena.nextWire, x)], field := s.field.allocate 1 }

theorem CircuitCorrect.portWire (h : CircuitCorrect s) (x : Word64) : CircuitCorrect (s.portWire x) := by
  have word : (x.toNat : Int) % (s.params.fieldPrime : Int) = x.toNat := emod_of_lt (x.isLt.trans_le h.room)
  have old (a : Nat → Int) (w : Witness (s.portWire x) a) : Witness s a :=
    ⟨w.satisfies, w.inputs, fun c mem => w.portInputs c (List.mem_append_left _ mem)⟩
  have fresh : (s.field.arena.nextWire, x) ∈ (s.portWire x).portInputs :=
    List.mem_append_right _ (List.mem_singleton_self _)
  refine h.grow rfl (fun _ => x.toNat) old (fun a w i le lt _ => ?_) (fun a w solved => ?_) (fun _ input => input)
    (fun a w => ?_) (h.allocated.allocate 1) (fun built => ?_) fun c mem => ?_
  · obtain rfl : i = s.field.arena.nextWire := Nat.le_antisymm (Nat.lt_succ_iff.1 lt) le
    exact (w.portInputs _ fresh).trans word.symm
  · refine ⟨w.satisfies, w.inputs, fun c mem => ?_⟩
    rcases List.mem_append.1 mem with old | new
    · exact w.portInputs c old
    · rw [List.mem_singleton.1 new, solved _ le_rfl]
      exact word
  · exact (h.sound a (old a w)).congr rfl (fun n => by cases n <;> rfl) (fun n => by cases n <;> rfl) rfl rfl
  · obtain ⟨fits, room⟩ := h.inputWires built
    exact ⟨fits, room.trans (Nat.le_add_right _ 1)⟩
  · rcases List.mem_append.1 mem with old | new
    · exact (h.portWires c old).trans_le (Nat.le_add_right _ 1)
    · rw [List.mem_singleton.1 new]
      exact Nat.lt_succ_self _

/-- The port's input wire is a new wire, exploded and put in the lane. -/
theorem portInput_field (s : State) (n : LaneName) (x : Word64) : (s.portInput n x).field =
    (s.portWire x).field.put n ({ packed := .ofId s.field.arena.nextWire
                                  bits := some (explode 64 (.ofId s.field.arena.nextWire) (s.portWire x).field.arena).1 },
      (explode 64 (.ofId s.field.arena.nextWire) (s.portWire x).field.arena).2) := by
  have wire : s.field.arena.emit 1 [] = (s.portWire x).field.arena := by
    simp [Arena.emit, State.portWire, FieldLevel.allocate]
  cases n <;> simp only [State.portInput, fieldInput, wire] <;> rfl

theorem CircuitCorrect.portInput (h : CircuitCorrect s) (n : LaneName) (x : Word64) :
    CircuitCorrect (s.portInput n x) := by
  have wired := h.portWire x
  have below : (Wire.ofId s.field.arena.nextWire).Below (s.portWire x).field.arena.nextWire := Nat.lt_succ_self _
  obtain ⟨closed, bits⟩ := closed_explode wired.allocated.record below 64
  have exploded := (forces_explode (w := .ofId s.field.arena.nextWire) (ar := (s.portWire x).field.arena) h.prime h.room
    x.isLt).frame (other := fun a => a s.field.arena.nextWire % (s.params.fieldPrime : Int) = x.toNat)
  refine wired.put (d := n) (x := x) ⟨by simp [State.portInput, State.portWire], by simp [State.portInput, State.portWire],
      by simp [State.portInput, State.portWire], fun _ => by simp [State.portInput, State.portWire]⟩
    (portInput_field s n x) (by rw [lane_portInput, State.lane_setLane_self])
    (fun n' ne => by rw [lane_portInput, State.lane_setLane_ne _ ne]; cases n' <;> rfl)
    (by simp [State.portInput, State.portWire])
    ⟨closed, below.mono (extends_explode ..).wires, fun _ e => by cases e; exact bits⟩ ?_
  refine exploded.mono (fun a w => ?_) fun a held => ⟨held.2, fun _ e => ?_⟩
  · have value := w.1.portInputs (s.field.arena.nextWire, x) (List.mem_append_right _ (List.mem_singleton_self _))
    exact ⟨value, value⟩
  · cases e
    exact ⟨length_newWires .., held.1⟩

/-! ### Every move -/

/-- A report of CONSTRAINT_VIOLATION touches no lane and no wire. -/
theorem CircuitCorrect.report (h : CircuitCorrect s) (v : Option Violation) :
    CircuitCorrect { s.enterFault .constraintViolation with violation := v } :=
  h.congr ⟨rfl, rfl, rfl, fun _ => ⟨rfl, rfl, rfl, rfl⟩⟩ (fun n => by cases n <;> rfl) rfl rfl

/-- Settles O51, move by move. -/
theorem hostMovesKeepCircuitCorrect : Obligations.HostMovesKeepCircuitCorrect := by
  intro s t mv h move
  rcases hostMove_some move with ⟨_, rfl⟩ | ⟨a, _, unbuilt, _, rfl⟩ | ⟨words, _, _, _, _, rfl⟩ |
    ⟨form, n, value, _, _, rfl⟩ | ⟨_, _, _, _, rfl⟩ | ⟨_, _, rfl⟩ | ⟨witness, _, _, rfl⟩
  · exact h.hostReset
  · exact h.construct unbuilt a
  · exact h.congr ⟨rfl, rfl, rfl, fun _ => ⟨rfl, rfl, rfl, rfl⟩⟩ (fun n => by cases n <;> rfl) rfl rfl
  · rcases portWrite_cases s form n value with ⟨_, _, e⟩ | ⟨_, _, e⟩ | ⟨_, e⟩ <;> rw [e]
    · exact h.portConstant n _
    · exact h.portInput n _
    · exact h.report _
  · exact h.congr ⟨rfl, rfl, rfl, fun _ => ⟨rfl, rfl, rfl, rfl⟩⟩ (fun n => by cases n <;> rfl) rfl rfl
  · exact h
  · rcases judge_cases s witness with e | ⟨c, _, _, e⟩ <;> rw [e]
    · exact h
    · exact h.report _

end Sys2Proof.Machine
end

section
/-! PROOFS. The driver's stream ends in the digest (43_host_driver.md R95, R96, R100): the states its commands go through, one
chunk after the other. -/

namespace Sys2Proof.Machine

variable {p : Config.Params} {message : List Byte} {rest : List Instr} {i : Instr} {s t : State} {len k : Nat}

/-! ### Runs in which the driver issues every command -/

/-- The block steps from `s` to `t`, before each step the driver issuing the next of the commands. -/
def Follows (len : Nat) : List Instr → State → State → Prop
  | [], s, t => s = t
  | i :: is, s, t => s.driver.issues len = i ∧ ∃ u, step s = .next u ∧ Follows len is u t

theorem Follows.append : ∀ {is js : List Instr} {s u t : State}, Follows len is s u → Follows len js u t →
    Follows len (is ++ js) s t
  | [], _, _, _, _, rfl, h => h
  | _ :: _, _, _, _, _, ⟨issues, v, step, rest⟩, h => ⟨issues, v, step, rest.append h⟩

theorem core_run_succ {s u : State} (h : step s = .next u) (n : Nat) : core.run (n + 1) s = core.run n u := by
  have h : core.step s = .next u := h
  simp only [Host.Core.run, h]

/-- Such a run takes one step a command, and at command n the driver issues it. -/
theorem Follows.run : ∀ {is : List Instr} {s t : State}, Follows len is s t → core.run is.length s = .next t ∧
    ∀ n i, is[n]? = some i → ∃ u, core.run n s = .next u ∧ u.driver.issues len = i
  | [], s, _, rfl => ⟨rfl, nofun⟩
  | i :: is, s, t, ⟨issues, u, step, rest⟩ => by
    obtain ⟨ends, every⟩ := rest.run
    refine ⟨(core_run_succ step _).trans ends, fun n j e => ?_⟩
    cases n with
    | zero =>
      cases e
      exact ⟨s, rfl, issues⟩
    | succ n =>
      rw [core_run_succ step]
      exact every n j e

/-! ### The driver's states (R95) -/

theorem driverAt_of_lt (lt : k < chunkCount len - 1) : driverAt len k = .compressing k := by
  rw [driverAt, if_pos]
  simp only [chunkCount, Config.blockBytes] at lt ⊢
  omega

theorem driverAt_last (len : Nat) : driverAt len (chunkCount len - 1) = .finalCompress := by
  rw [driverAt, if_neg]
  simp only [chunkCount, Config.blockBytes]
  omega

/-- The number of a chunk is below NCHUNK, the last one below the others. -/
theorem lt_or_eq_last (lt : k < chunkCount len) : k < chunkCount len - 1 ∨ k = chunkCount len - 1 := by omega

theorem issues_load (lt : k < chunkCount len) :
    Driver.issues len { state := driverAt len k, loaded := false } = .ldchunk (chunkIndex k) := by
  rcases lt_or_eq_last lt with lt | rfl
  · rw [driverAt_of_lt lt]
    rfl
  · rw [driverAt_last]
    rfl

theorem succ_load (lt : k < chunkCount len) :
    Driver.succ len { state := driverAt len k, loaded := false } = { state := driverAt len k, loaded := true } := by
  rcases lt_or_eq_last lt with lt | rfl
  · rw [driverAt_of_lt lt]
    rfl
  · rw [driverAt_last]
    rfl

/-! ### On the driver's stream -/

/-- A built, unfaulted block with the message in Buf and the commands yet to run on its stream. -/
structure OnStream (p : Config.Params) (message : List Byte) (rest : List Instr) (s : State) : Prop where
  params : s.params = p
  buf : s.buf = buildBuf p.key message
  len : s.len = message.length
  built : s.built = true
  accepted : s.refused = false
  unfaulted : s.fault = 0
  outForm : Memory.wf outUnlisted s.out
  fetch : ∃ done : List CommandWord, s.stream = some (done ++ rest.map encode) ∧ s.cp = done.length

/-- The state after a command that the driver has issued. -/
def State.issued (s : State) (i : Instr) : State := (completed i s).setDriver (s.driver.succ s.len)

theorem completed_outForm (h : Memory.wf outUnlisted s.out) (i : Instr) : Memory.wf outUnlisted (completed i s).out := by
  by_cases store : i = .stdig
  · rw [store, completed_stdig_out]
    exact writeBytes_wf _ 0 h
  · rwa [completed_out store]

/-- A command the driver issues, next on the stream, on operands that hold values. -/
theorem OnStream.step (h : OnStream p message (i :: rest) s) (issues : s.driver.issues message.length = i)
    (wf : i.wellFormed = true) (held : ¬ OperandUnwritten s i) (inside : ¬ ChunkOutOfRange s i) :
    step s = .next (s.issued i) ∧ OnStream p message rest (s.issued i) := by
  have host := completed_sameHostSide i s
  obtain ⟨done, stream, cp⟩ := h.fetch
  have word : (done ++ (i :: rest).map encode)[s.cp]? = some (encode i) := by simp [cp]
  refine ⟨?_, host.params.trans h.params, host.buf.trans h.buf, host.len.trans h.len, host.built.trans h.built,
    host.refused.trans h.accepted, (completed_fault i s).trans h.unfaulted, completed_outForm h.outForm i,
    done ++ [encode i], ?_, ?_⟩
  · rw [step_eq_runWord h.accepted h.unfaulted h.built stream word, runWord_of_decode (decode_encode wf),
      exec_eq_completed wf held inside]
    simp only [followDriver, completed_fault, h.unfaulted, if_true, completed_driver, host.len, Driver.follow, h.len, issues,
      State.issued]
  · rw [List.append_assoc]
    exact host.stream.trans stream
  · rw [List.length_append, ← cp]
    exact completed_cp i s

/-! ### The chunks -/

/-- Before chunk k. -/
structure AtChunk (p : Config.Params) (message : List Byte) (rest : List Instr) (k : Nat) (s : State) : Prop
    extends OnStream p message rest s where
  chain : s.h = written (chainAfter p message k)
  driver : s.driver = { state := driverAt message.length k, loaded := false }

/-- With chunk k loaded. -/
structure Loaded (p : Config.Params) (message : List Byte) (rest : List Instr) (k : Nat) (s : State) : Prop
    extends OnStream p message rest s where
  chain : s.h = written (chainAfter p message k)
  block : s.m = written (inputChunk (preparedInput p message) k)
  counter : s.t = some (inputCounter (preparedInput p message) k)
  driver : s.driver = { state := driverAt message.length k, loaded := true }

theorem length_preparedInput (p : Config.Params) (message : List Byte) :
    (preparedInput p message).length = 128 + message.length := by
  simp [preparedInput]
  omega

/-- What LDCHUNK reads of the built buffer is the chunk of the prepared input. -/
theorem OnStream.chunkWords_eq (h : OnStream p message rest s) (k : Nat) :
    chunkWords s k = inputChunk (preparedInput p message) k := by
  have bytes (a : Nat) : s.bufByte a = (preparedInput p message).getD a 0 := by
    rw [bufByte_of_buildBuf (h.params ▸ h.buf) h.len, h.params]
  simp only [chunkWords, inputChunk, State.memRead, bytes, Config.blockBytes]

theorem OnStream.chunkCounter_eq (h : OnStream p message rest s) (k : Nat) :
    Machine.chunkCounter s k = inputCounter (preparedInput p message) k := by
  simp only [Machine.chunkCounter, inputCounter, length_preparedInput, State.bufLen, h.len, Config.blockBytes]

theorem val_chunkIndex (lt : k < 2 ^ 28) : (chunkIndex k).val = k := Nat.mod_eq_of_lt lt

theorem AtChunk.load (h : AtChunk p message (.ldchunk (chunkIndex k) :: rest) k s)
    (nameable : chunkCount message.length ≤ 2 ^ 28) (lt : k < chunkCount message.length) :
    ∃ t, Follows message.length [.ldchunk (chunkIndex k)] s t ∧ Loaded p message rest k t := by
  have issues : s.driver.issues message.length = .ldchunk (chunkIndex k) := by rw [h.driver, issues_load lt]
  have number := val_chunkIndex (lt.trans_le nameable)
  have inside : ¬ ChunkOutOfRange s (.ldchunk (chunkIndex k)) := by
    rw [ChunkOutOfRange, number, Nat.not_le, chunk_inside_iff, h.len]
    exact lt
  obtain ⟨step, on⟩ := h.toOnStream.step issues rfl (fun un => un) inside
  refine ⟨_, ⟨issues, _, step, rfl⟩, on, ?_, ?_, ?_, ?_⟩
  · simp [State.issued, completed, h.chain]
  · simp [State.issued, completed, number, h.toOnStream.chunkWords_eq]
  · simp [State.issued, completed, number, h.toOnStream.chunkCounter_eq]
  · rw [State.issued, State.setDriver_driver, h.driver, h.len, succ_load lt]

/-- A compression on a loaded chunk. -/
theorem Loaded.compress {f : Bool} (h : Loaded p message (.compress f :: rest) k s)
    (issues : s.driver.issues message.length = .compress f) :
    Follows message.length [.compress f] s (s.issued (.compress f)) ∧ OnStream p message rest (s.issued (.compress f)) ∧
      (s.issued (.compress f)).h = written (compressWords p (chainAfter p message k)
        (inputChunk (preparedInput p message) k) (inputCounter (preparedInput p message) k) f) := by
  have held : ¬ OperandUnwritten s (.compress f) := by simp [OperandUnwritten, h.chain, h.block, h.counter]
  obtain ⟨step, on⟩ := h.toOnStream.step issues rfl held (fun out => out)
  refine ⟨⟨issues, _, step, rfl⟩, on, ?_⟩
  simp [State.issued, completed, h.chain, h.block, h.counter, h.params]

/-- The driver's commands for a chunk that is not the last. -/
def chunkCommands (k : Nat) : List Instr := [.ldchunk (chunkIndex k), .compress false]

theorem AtChunk.chunk (h : AtChunk p message (chunkCommands k ++ rest) k s)
    (nameable : chunkCount message.length ≤ 2 ^ 28) (lt : k < chunkCount message.length - 1) :
    ∃ t, Follows message.length (chunkCommands k) s t ∧ AtChunk p message rest (k + 1) t := by
  obtain ⟨u, load, loaded⟩ := h.load nameable (by omega)
  have driver := loaded.driver
  rw [driverAt_of_lt lt] at driver
  obtain ⟨compress, on, chain⟩ := loaded.compress (by rw [driver]; rfl)
  refine ⟨_, load.append compress, on, chain, ?_⟩
  rw [State.issued, State.setDriver_driver, driver, loaded.len]
  rfl

/-- All the chunks before the last. -/
theorem AtChunk.chunks (nameable : chunkCount message.length ≤ 2 ^ 28) : ∀ {n : Nat} {rest : List Instr},
    n ≤ chunkCount message.length - 1 → AtChunk p message ((List.range n).flatMap chunkCommands ++ rest) 0 s →
    ∃ t, Follows message.length ((List.range n).flatMap chunkCommands) s t ∧ AtChunk p message rest n t
  | 0, rest, _, h => ⟨s, rfl, h⟩
  | n + 1, rest, le, h => by
    rw [List.range_succ, List.flatMap_append, List.flatMap_singleton, List.append_assoc] at h
    obtain ⟨u, before, at_n⟩ := AtChunk.chunks nameable (Nat.le_of_succ_le le) h
    obtain ⟨t, chunk, at_next⟩ := at_n.chunk nameable (Nat.lt_of_succ_le le)
    rw [List.range_succ, List.flatMap_append, List.flatMap_singleton]
    exact ⟨t, before.append chunk, at_next⟩

/-! ### The last chunk and the digest (R86, R100) -/

/-- Reads that all succeed give the list of what they read. -/
theorem mapM_eq_some_map {α β : Type} {f : α → Option β} {g : α → β} :
    ∀ {l : List α}, (∀ a ∈ l, f a = some (g a)) → l.mapM f = some (l.map g)
  | [], _ => rfl
  | a :: l, h => by
    obtain ⟨head, tail⟩ := List.forall_mem_cons.1 h
    rw [List.mapM_cons, head, mapM_eq_some_map tail]
    rfl

theorem outputWires_of_stored {bs : List Byte} (wf : Memory.wf outUnlisted s.out) (length : bs.length = 32)
    (out : t.out = writeBytes outUnlisted s.out 0 bs) : t.outputWires = some bs := by
  have bytes : ∀ a ∈ List.range 32, readByte outUnlisted t.out a = some (bs.getD a 0) := fun a mem => by
    have lt : a < bs.length := by rwa [length, ← List.mem_range]
    rw [out, readByte_writeBytes bs 0 a wf, dif_pos ⟨Nat.zero_le a, lt⟩, List.getD_eq_getElem _ _ lt]
    rfl
  rw [State.outputWires, mapM_eq_some_map bytes]
  refine congrArg some (List.ext_getElem (by simp [length]) fun a lt lt' => ?_)
  rw [List.getElem_map, List.getElem_range, List.getD_eq_getElem _ _ lt']

/-- The last chunk, compressed with the final flag, and the digest stored. -/
theorem AtChunk.last (h : AtChunk p message [.ldchunk (chunkIndex (chunkCount message.length - 1)), .compress true, .stdig]
      (chunkCount message.length - 1) s) (nameable : chunkCount message.length ≤ 2 ^ 28) :
    ∃ t, Follows message.length [.ldchunk (chunkIndex (chunkCount message.length - 1)), .compress true, .stdig] s t ∧
      OnStream p message [] t ∧ t.outputWires = some (messageDigest p message) ∧ t.driver.state = .done := by
  obtain ⟨u, load, loaded⟩ := h.load nameable (Nat.sub_lt (Nat.add_pos_left Nat.one_pos _) Nat.one_pos)
  have driver := loaded.driver
  rw [driverAt_last] at driver
  obtain ⟨compress, on, chain⟩ := loaded.compress (by rw [driver]; rfl)
  have done : (u.issued (.compress true)).driver = { state := .done, loaded := false } := by
    rw [State.issued, State.setDriver_driver, driver]
    rfl
  generalize u.issued (.compress true) = v at compress on chain done
  have issues : v.driver.issues message.length = .stdig := by rw [done]; rfl
  obtain ⟨store, ended⟩ := on.step issues rfl (by simp [OperandUnwritten, chain]) (fun out => out)
  have digest : digestBytes (wordsOf v.h) = messageDigest p message := by
    rw [chain, wordsOf_written, messageDigest]
  have out : (v.issued .stdig).out = writeBytes outUnlisted v.out 0 (messageDigest p message) := by
    rw [State.issued, State.setDriver_out, completed_stdig_out, digest]
  refine ⟨_, load.append (compress.append ⟨issues, _, store, rfl⟩), ended, ?_, ?_⟩
  · exact outputWires_of_stored on.outForm (digest ▸ length_digestBytes _) out
  · rw [State.issued, State.setDriver_driver, done]
    rfl

/-! ### The start (70_reset_and_hazards.md R131) -/

theorem driverStream_eq (len : Nat) : driverStream len =
    .init :: ((List.range (chunkCount len - 1)).flatMap chunkCommands ++
      [.ldchunk (chunkIndex (chunkCount len - 1)), .compress true, .stdig]) := by
  have commands : (fun k => [.ldchunk (chunkIndex k), .compress false]) = chunkCommands := rfl
  rw [driverStream, commands, List.cons_append]

theorem onStream_driverStart (large : 2 ^ 66 < p.fieldPrime) (nameable : chunkCount message.length ≤ 2 ^ 28) :
    OnStream p message (driverStream message.length) (driverStart p message) ∧
      (driverStart p message).driver = { state := .idle, loaded := false } := by
  have length : lengthAdmitted message.length 8 message.length = true := by
    rw [lengthAdmitted_iff]
    omega
  have config : configurationAdmitted p 8 message.length = true := by
    simp only [configurationAdmitted, Config.Params.fieldLargeEnough, Config.maxChunks, Bool.and_eq_true,
      decide_eq_true_eq, beq_self_eq_true, true_and]
    exact ⟨nameable, large⟩
  rw [driverStart, construct_of_admitted length config]
  refine ⟨⟨rfl, ?_, rfl, rfl, rfl, rfl, wf_nil _, [], rfl, rfl⟩, rfl⟩
  show buildBuf p.key (message.take message.length) = _
  rw [List.take_length]

theorem OnStream.init (h : OnStream p message (.init :: rest) s) (idle : s.driver = { state := .idle, loaded := false }) :
    ∃ t, Follows message.length [.init] s t ∧ AtChunk p message rest 0 t := by
  have issues : s.driver.issues message.length = .init := by rw [idle]; rfl
  obtain ⟨step, on⟩ := h.step issues rfl (fun un => un) (fun out => out)
  refine ⟨_, ⟨issues, _, step, rfl⟩, on, ?_, ?_⟩
  · exact (completed_init_h s).trans (by rw [h.params, chainAfter])
  · rw [State.issued, State.setDriver_driver, idle, h.len]
    rfl

theorem length_chunkCommands (n : Nat) : ((List.range n).flatMap chunkCommands).length = 2 * n := by
  simp [List.length_flatMap, chunkCommands, Nat.mul_comm]

theorem length_driverStream (len : Nat) : (driverStream len).length = 2 * chunkCount len + 2 := by
  rw [driverStream_eq, List.length_cons, List.length_append, length_chunkCommands]
  simp only [List.length_cons, List.length_nil, chunkCount]
  omega

theorem OnStream.final (h : OnStream p message [] s) : s.final = true := by
  obtain ⟨done, stream, cp⟩ := h.fetch
  exact final_iff.2 ⟨h.built, h.unfaulted, h.accepted, _, stream, by simp [cp]⟩

/-- Settles O60: INIT, the chunks in order, the last one and the store, each issued by the driver as it comes. -/
theorem driverStreamYieldsDigest : Obligations.DriverStreamYieldsDigest := by
  intro p message large nameable
  obtain ⟨start, idle⟩ := onStream_driverStart large nameable
  rw [driverStream_eq] at start
  obtain ⟨s₁, init, atFirst⟩ := start.init idle
  obtain ⟨s₂, chunks, atLast⟩ := atFirst.chunks nameable le_rfl
  obtain ⟨t, last, ended, digest, done⟩ := atLast.last nameable
  have follows : Follows message.length (driverStream message.length) (driverStart p message) t := by
    rw [driverStream_eq]
    exact init.append (chunks.append last)
  obtain ⟨run, every⟩ := follows.run
  rw [length_driverStream] at run
  exact ⟨t, run, ended.final, ended.unfaulted, digest, done, every⟩

end Sys2Proof.Machine
end
